-- ==== Sys2Proof/Word.lean ====
section
/-! DEFINITION. The word types of the block: 32-bit words, binary32 patterns, 8-bit header fields and lane masks. -/

namespace Sys2Proof

/-- A 32-bit word of the command port, the response port or a u32 operand (`30_encoding.md` R100, R104). -/
abbrev Word := BitVec 32

/-- A float is held as its binary32 pattern (`00_scope.md` R12, R13: `bits` and `flt` are the identity here). -/
abbrev F32 := BitVec 32

/-- An 8-bit field of a command header (`30_encoding.md` R101). -/
abbrev Field := BitVec 8

/-- A V-bit lane mask, V ≤ 8, bit ℓ selecting lane ℓ (`00_scope.md` R14). -/
abbrev Mask := BitVec 8

/-- The float constants the rules name. -/
abbrev F32.zero : F32 := 0x00000000#32
/-- 1.0 -/
abbrev F32.one : F32 := 0x3F800000#32
/-- 12.0 -/
abbrev F32.twelve : F32 := 0x41400000#32
/-- 440.0 -/
abbrev F32.a440 : F32 := 0x43DC0000#32
/-- 4294967296.0 = 2^32 -/
abbrev F32.two32 : F32 := 0x4F800000#32
/-- +inf -/
abbrev F32.inf : F32 := 0x7F800000#32

end Sys2Proof
end

