-- ==== Sys2Proof/Config.lean ====
section
/-! DEFINITION. The build parameters of the block (`00_scope.md` R7), the choice of its configuration functions (R10), and the free values (R16) and open functions as constants without a body. -/

namespace Sys2Proof

/-- An order of summation of the V unison copies of one channel (`43_unison_voice.md` R213, U12): a leaf is
the copy in a group lane, a node one `fadd`. -/
inductive SumTree where
  | leaf (lane : Nat)
  | node (l r : SumTree)
deriving DecidableEq, Repr, Inhabited

/-- The lanes a summation order reads, left to right. -/
def SumTree.leaves : SumTree → List Nat
  | .leaf j => [j]
  | .node l r => l.leaves ++ r.leaves

/-- A summation order of V lanes adds each of them exactly once. -/
def SumTree.covers (v : Nat) (t : SumTree) : Bool :=
  t.leaves.length == v && (List.range v).all (fun j => t.leaves.contains j)

/-- The ascending order of lanes 0 to k, the default of `FOLD` (`43_unison_voice.md` R213). -/
def SumTree.ascending : Nat → SumTree
  | 0 => .leaf 0
  | k + 1 => .node (SumTree.ascending k) (.leaf (k + 1))

/-- The transport byte order of a 32-bit word (`20_memory.md` R76). -/
inductive ByteOrder where
  | littleEndian
  | bigEndian
deriving DecidableEq, Repr, Inhabited

/-- A configuration function is either the default the spec constructs or an arbitrary function bound by the
properties the spec names (`00_scope.md` R10). -/
inductive Policy where
  | specDefault
  | other
deriving DecidableEq, Repr, Inhabited

/-- The build-time parameters (`00_scope.md` R7) and the choice of the configuration functions (R10). Plain
data: the block's state carries it as an argument that no command writes. -/
structure Config where
  /-- `NUM_OCTAVES` -/
  numOctaves : Nat
  /-- `V` = `STEREO_VOICES_PER_VECTOR` -/
  v : Nat
  /-- `MAX_UNISON` -/
  maxUnison : Nat
  /-- `NUM_BANK_SLOTS` -/
  numBankSlots : Nat
  /-- `MAX_FRAMES` -/
  maxFrames : Nat
  /-- `IMPORT_SIZE` -/
  importSize : Nat
  /-- `OUT_SIZE` -/
  outSize : Nat
  /-- whether `EXP2` has the integer-exactness property that some test vectors assume (R10) -/
  exp2IntegerExact : Bool
  /-- `MAP_p` -/
  mapParam : Policy
  /-- `DETUNE_ROW` -/
  detuneRow : Policy
  /-- `FRAME_SPREAD` -/
  frameSpread : Policy
  /-- `BUILD_MIPMAPS` -/
  buildMipmaps : Policy
  /-- `FOLD`: `none` is the default ascending order; otherwise an order for the left channel and one for the
  right, which may differ -/
  foldOrder : Option (SumTree × SumTree)
  /-- `WORD_BYTE_ORDER` of a transport (`20_memory.md` R76) -/
  wordByteOrder : ByteOrder
deriving DecidableEq, Repr, Inhabited

/-- `TABLE_SIZE = 2^NUM_OCTAVES` (R9). -/
def Config.tableSize (k : Config) : Nat := 2 ^ k.numOctaves
/-- `NUM_MIPMAPS = NUM_OCTAVES + 1` (R9). -/
def Config.numMipmaps (k : Config) : Nat := k.numOctaves + 1
/-- `FRAC_BITS = PHASE_BITS − NUM_OCTAVES` with `PHASE_BITS = 32` (R7). -/
def Config.fracBits (k : Config) : Nat := 32 - k.numOctaves
/-- `E = 2·V`, elements per vector (R7, R14). -/
def Config.e (k : Config) : Nat := 2 * k.v
/-- `K = ceil(MAX_UNISON / V)`, oscillator groups per voice (R7). -/
def Config.k (k : Config) : Nat := (k.maxUnison + k.v - 1) / k.v
/-- `MAX_CLUSTERS`, fixed by the 8-bit cluster field (R7). -/
def Config.maxClusters : Nat := 256

/-- DEDUCED (assumption 7): "some order of summation" (`93_implementation_defined.md` U12) is, for each channel on
its own, a tree of additions that adds every lane exactly once. -/
def Config.foldLegal (k : Config) : Bool :=
  match k.foldOrder with
  | none => true
  | some (left, right) => left.covers k.v && right.covers k.v

/-- The constraints of `00_scope.md` R7; `93_implementation_defined.md` U24: a model rejects any other build. -/
def Config.legal (k : Config) : Bool :=
  1 ≤ k.numOctaves && k.numOctaves ≤ 31
  && (k.v == 1 || k.v == 2 || k.v == 4 || k.v == 8)
  && 1 ≤ k.maxUnison && 2 ≤ k.numBankSlots && 1 ≤ k.maxFrames
  && k.tableSize ≤ k.importSize && k.e ≤ k.outSize && k.foldLegal

/-- `CFG_TINY` (`00_scope.md` R7) with every configuration function at the spec's default.
DESIGN CHOICE (unsafe): the build that `State.reset` carries (assumption 1). -/
def Config.tiny : Config where
  numOctaves := 3
  v := 2
  maxUnison := 4
  numBankSlots := 2
  maxFrames := 2
  importSize := 16
  outSize := 64
  exp2IntegerExact := false
  mapParam := .specDefault
  detuneRow := .specDefault
  frameSpread := .specDefault
  buildMipmaps := .specDefault
  foldOrder := none
  wordByteOrder := .littleEndian

/-- `draw32()` (`00_scope.md` R16): the k-th draw of a run, unconstrained. Safe. -/
opaque Config.draw32 : Nat → Word

/-- The draw that gives a NaN result its sign and payload (`00_scope.md` R12), one for each place where a
result is computed; the place is a path of numbers. Unconstrained. Safe. -/
opaque Config.nanDraw : List Nat → Word

/-- `EXP2` beyond its named properties (`00_scope.md` R10). -/
opaque Config.exp2Open : F32 → F32
/-- `POW` beyond its named properties (`00_scope.md` R10). -/
opaque Config.powOpen : F32 → F32 → F32
/-- `MAP_p` when it is not the default identity: parameter id, host value (`00_scope.md` R10). -/
opaque Config.mapOpen : Nat → F32 → F32
/-- `DETUNE_ROW` when it is not the default: unison count, copy (`43_unison_voice.md` R203). -/
opaque Config.detuneRowOpen : Nat → Nat → F32
/-- `FRAME_SPREAD` when it is not the default: unison count, copy (`43_unison_voice.md` R208). -/
opaque Config.frameSpreadOpen : Nat → Nat → F32
/-- `BUILD_MIPMAPS` below the full-bandwidth level where the spec states no value (not the default transform,
or a frame with a non-finite sample, U4): frame, level, sample. -/
opaque Config.buildOpen : List F32 → Nat → Nat → F32
/-- The power-on contents of IMPORT (`10_state.md` R50, U14), by element address. -/
opaque Config.powerOnImport : Nat → F32
/-- The power-on contents of OUT (`10_state.md` R50, U14), by element address; only the host reads them. -/
opaque Config.powerOnOut : Nat → F32

end Sys2Proof
end

