-- ==== Sys2Proof/Machine/State.lean ====
section
/-! DEFINITION. The architectural state of the block (`10_state.md`) as plain data, the reasons a step can stop, and the state after power-on reset. -/

namespace Sys2Proof.Machine

/-- A linear smoother cell: current value and increment per sample (`10_state.md` R37). -/
structure LinCell where
  cur : F32
  inc : F32
deriving DecidableEq, Repr, Inhabited

/-- A logarithmic smoother cell: current value and factor per sample (`10_state.md` R37). -/
structure LogCell where
  cur : F32
  fac : F32
deriving DecidableEq, Repr, Inhabited

/-- A linear smoother: a vector of E linear cells (`10_state.md` R37). -/
abbrev Lin := List LinCell

/-- A logarithmic smoother: a vector of E logarithmic cells (`10_state.md` R37). -/
abbrev Log := List LogCell

/-- An oscillator group `OSC[c][ℓ][g]` (`10_state.md` R44). -/
structure Osc where
  /-- the fixed-point phases, E elements -/
  phase : List Word
  /-- smoothed phase increment, cycles per sample -/
  pinc : Log
  /-- smoothed frame value -/
  frame : Lin
  /-- which unison copies of the group sound -/
  omask : Mask
deriving DecidableEq, Repr, Inhabited

/-- A unison voice `UV[c][ℓ]` with its K oscillators (`10_state.md` R43). -/
structure Voice where
  /-- the unison count in force -/
  nUni : Nat
  /-- the number of oscillator groups in use -/
  nOsc : Nat
  /-- the lanes in use of the last group in use -/
  tailMask : Mask
  osc : List Osc
deriving DecidableEq, Repr, Inhabited

/-- The state of one cluster (`10_state.md` R38 to R44). -/
structure Cluster where
  /-- the parameter file `P[c][p]`, nine linear smoothers (R38, R39) -/
  params : List Lin
  /-- base phase increment per element, cycles per sample (R40) -/
  basePinc : List F32
  /-- bit ℓ: lane ℓ sounds a voice (R41) -/
  laneActive : Mask
  /-- normal mix weights (R42) -/
  wn : Lin
  /-- flipped mix weights (R42) -/
  wf : Lin
  /-- the unison voice of each lane (R43) -/
  voices : List Voice
deriving DecidableEq, Repr, Inhabited

/-- A bank slot `BANK[s]` (`10_state.md` R45); `data` has `numFrames · NUM_MIPMAPS · TABLE_SIZE` elements. -/
structure BankSlot where
  valid : Bool
  numFrames : Nat
  data : List F32
deriving DecidableEq, Repr, Inhabited

/-- `ACTIVE_BANK` (`10_state.md` R34); the slot number is the 8-bit field of status register 4. -/
structure ActiveBank where
  valid : Bool
  slot : Field
deriving DecidableEq, Repr, Inhabited

/-- A memory of 32-bit elements by element address (`20_memory.md` R70): the elements that something has
written, addresses strictly rising. An unlisted element holds no value that the block or the host has
written; what a read of it gives is the memory's own power-on function (`10_state.md` R50). -/
abbrev Memory := List (Nat × F32)

/-- The state of the block (`10_state.md` R30), the two ports, and three fields of the model's own (`cfg`,
`draws`, `nanSeed`). -/
structure State where
  /-- the build: an argument of the step that no command writes (`10_state.md` R30; assumption 1) -/
  cfg : Config
  /-- `INITIALIZED` (R32) -/
  initialized : Bool
  /-- `CFG_SAMPLE_RATE` (R33) -/
  sampleRate : F32
  /-- `CFG_MAX_BLOCK` (R33) -/
  maxBlock : Word
  /-- `CFG_NUM_CLUSTERS` (R33) -/
  numClusters : Word
  /-- `ACTIVE_BANK` (R34) -/
  activeBank : ActiveBank
  /-- `ERRSTAT` (R35) -/
  errstat : BitVec 8
  /-- the cluster pool, C clusters (R38 to R44) -/
  clusters : List Cluster
  /-- the bank slots (R45) -/
  banks : List BankSlot
  /-- IMPORT (`20_memory.md` R74) -/
  importMem : Memory
  /-- OUT (`20_memory.md` R75) -/
  outMem : Memory
  /-- words the host has sent and the block has not taken, oldest first (`20_memory.md` R71; assumption 2) -/
  cmdPort : List Word
  /-- words the block has emitted and the host has not taken, oldest first (`20_memory.md` R71; assumption 2) -/
  rspPort : List Word
  /-- how many `draw32()` have been taken (`00_scope.md` R16; assumption 3) -/
  draws : Nat
  /-- separates the free NaN payloads of different commands (`00_scope.md` R12; assumption 4) -/
  nanSeed : Nat
deriving DecidableEq, Repr

/-- The block never stops with a fault: an error is a response and the block goes on (`60_exceptions.md` R305,
R306), and it has no trap (R314). No constructor. -/
inductive Fault where
deriving DecidableEq, Repr

/-- Why a step is refused. -/
inductive Refusal where
  /-- An instruction without a meaning; no arm of `exec` raises it. Safe. -/
  | notModelled (mnemonic : String)
  /-- `step` raises it for a build outside the constraints of `00_scope.md` R7, which
  `93_implementation_defined.md` U24 tells a model to reject. Safe. -/
  | illegalBuild
deriving DecidableEq, Repr

/-- Power-on reset of a block of build `k` (`10_state.md` R50, R52; `70_reset_and_hazards.md` R330): not
initialised, no clusters, no valid slot, no active bank, no sticky error, IMPORT and OUT unspecified, both ports
empty (assumption 2). -/
def State.powerOn (k : Config) : State where
  cfg := k
  initialized := false
  sampleRate := F32.zero
  maxBlock := 0
  numClusters := 0
  activeBank := ⟨false, 0⟩
  errstat := 0
  clusters := []
  banks := List.replicate k.numBankSlots ⟨false, 0, []⟩
  importMem := []
  outMem := []
  cmdPort := []
  rspPort := []
  draws := 0
  nanSeed := 0

/-- The machine right after power-on reset, in the build `CFG_TINY` (assumption 1). -/
def State.reset : State := State.powerOn Config.tiny

end Sys2Proof.Machine
end

