-- ==== Sys2Proof/Machine/Flags.lean ====
section
/-! DEFINITION. The errors (`60_exceptions.md` R301), the response words (`30_encoding.md` R108), the sticky bits of ERRSTAT (`10_state.md` R35), and the status words of R34 and R36. The block has no other flags. -/

namespace Sys2Proof.Machine

/-- The errors (`60_exceptions.md` R301). -/
inductive Err where
  | illegal
  | notInit
  | clusterRange
  | laneRange
  | bankFormat
  | bankSlot
  | argRange
deriving DecidableEq, Repr

/-- The status code of an error (`60_exceptions.md` R301); 0 is `OK`. -/
def errCode : Err → Nat
  | .illegal => 1
  | .notInit => 2
  | .clusterRange => 3
  | .laneRange => 4
  | .bankFormat => 5
  | .bankSlot => 6
  | .argRange => 7

/-- RSP0: the status code in bits [31:24], the rest zero (`30_encoding.md` R108). -/
def rsp0 (code : Nat) : Word := BitVec.ofNat 32 (code * 2 ^ 24)

/-- ERRSTAT after an error: the bit of its code set, the others kept (`10_state.md` R35). -/
def errstatSet (old : BitVec 8) (e : Err) : BitVec 8 := old ||| BitVec.ofNat 8 (2 ^ errCode e)

/-- `(ACTIVE_BANK.valid << 8) | ACTIVE_BANK.slot`, status register 4 (`10_state.md` R34). -/
def activeBankWord (b : ActiveBank) : Word :=
  (if b.valid then 0x100#32 else 0#32) ||| b.slot.setWidth 32

/-- Status register 6, the geometry (`10_state.md` R36). -/
def geometryWord (k : Config) : Word :=
  BitVec.ofNat 32 (k.numOctaves + k.v * 2 ^ 8 + min k.maxUnison 255 * 2 ^ 16 + min k.k 255 * 2 ^ 24)

end Sys2Proof.Machine
end

