-- ==== Sys2Proof/Machine/Float.lean ====
section
/-! DEFINITION. IEEE 754 binary32 arithmetic and the conversions (`00_scope.md` R12, R13), computed exactly on natural numbers and rounded once. A finite float is an integer number of units of 2^−149. -/

namespace Sys2Proof.Machine

/-- The place of one dynamic float operation: a path that no other operation of the run shares, so that each
NaN result draws its own sign and payload (`00_scope.md` R12, R16; assumption 4). -/
abbrev Site := List Nat

/-- Sign bit. -/
def fsign (x : F32) : Bool := x.toNat / 2 ^ 31 % 2 == 1
/-- Biased exponent field. -/
def fexp (x : F32) : Nat := x.toNat / 2 ^ 23 % 2 ^ 8
/-- Fraction field. -/
def ffrac (x : F32) : Nat := x.toNat % 2 ^ 23

def isNaN (x : F32) : Bool := fexp x == 255 && ffrac x != 0
def isInf (x : F32) : Bool := fexp x == 255 && ffrac x == 0
def isFinite (x : F32) : Bool := fexp x != 255
def isZero (x : F32) : Bool := x.toNat % 2 ^ 31 == 0

/-- The magnitude of a finite float in units of 2^−149, subnormals included. -/
def fmag (x : F32) : Nat :=
  if fexp x = 0 then ffrac x else (2 ^ 23 + ffrac x) * 2 ^ (fexp x - 1)

/-- The value of a finite float in units of 2^−149. -/
def fval (x : F32) : Int := if fsign x then -(fmag x : Int) else (fmag x : Int)

/-- The float with a sign and the low 31 bits given. -/
def mkF (neg : Bool) (low : Nat) : F32 := BitVec.ofNat 32 ((if neg then 2 ^ 31 else 0) + low)

/-- The low 31 bits of the float nearest to p/q units of 2^−149, ties to even, overflow to infinity
(`00_scope.md` R12: correctly rounded, subnormals kept). -/
def roundMag (p q : Nat) : Nat :=
  let e := Nat.log2 (p / q) - 23
  let u := q * 2 ^ e
  let m := p / u
  let r := p % u
  let m' := if u < 2 * r || (2 * r == u && m % 2 == 1) then m + 1 else m
  min (e * 2 ^ 23 + m') (255 * 2 ^ 23)

/-- The integer part of the square root, by its binary digits from digit k − 1 down. -/
def isqrtFrom (n : Nat) : Nat → Nat → Nat
  | 0, r => r
  | k + 1, r =>
    match Nat.ble ((r + 2 ^ k) * (r + 2 ^ k)) n with
    | true => isqrtFrom n k (r + 2 ^ k)
    | false => isqrtFrom n k r

/-- The integer part of the square root of n. -/
def isqrt (n : Nat) : Nat := isqrtFrom n (Nat.log2 n / 2 + 1) 0

/-- A quiet NaN with drawn sign and payload (`00_scope.md` R12; `93_implementation_defined.md` U10). -/
def quietNaN (site : Site) : F32 := (Config.nanDraw site &&& 0x803FFFFF#32) ||| 0x7FC00000#32

/-- A float with every NaN taken for one, so that what is computed from it reads no sign and no payload of a NaN
(`70_reset_and_hazards.md` R353, `93_implementation_defined.md` U10). -/
def payloadFree (x : F32) : F32 := if isNaN x then 0x7FC00000#32 else x

/-- Sign change of a pattern. -/
def fnegate (x : F32) : F32 := x ^^^ 0x80000000#32

/-- Magnitude of a pattern. -/
def fabs (x : F32) : F32 := x &&& 0x7FFFFFFF#32

/-- `fadd` (`00_scope.md` R12). -/
def fadd (site : Site) (a b : F32) : F32 :=
  if isNaN a || isNaN b then quietNaN site
  else if isInf a then (if isInf b && fsign a != fsign b then quietNaN site else a)
  else if isInf b then b
  else
    let s := fval a + fval b
    if s = 0 then mkF (fsign a && fsign b) 0 else mkF (s < 0) (roundMag s.natAbs 1)

/-- `fsub` (`00_scope.md` R12): addition of the number with the other sign. -/
def fsub (site : Site) (a b : F32) : F32 := fadd site a (fnegate b)

/-- `fmul` (`00_scope.md` R12). -/
def fmul (site : Site) (a b : F32) : F32 :=
  let neg := fsign a != fsign b
  if isNaN a || isNaN b then quietNaN site
  else if isInf a || isInf b then
    (if isZero a || isZero b then quietNaN site else mkF neg (255 * 2 ^ 23))
  else mkF neg (roundMag (fmag a * fmag b) (2 ^ 149))

/-- `fdiv` (`00_scope.md` R12). -/
def fdiv (site : Site) (a b : F32) : F32 :=
  let neg := fsign a != fsign b
  if isNaN a || isNaN b then quietNaN site
  else if isInf a then (if isInf b then quietNaN site else mkF neg (255 * 2 ^ 23))
  else if isInf b then mkF neg 0
  else if isZero b then (if isZero a then quietNaN site else mkF neg (255 * 2 ^ 23))
  else mkF neg (roundMag (fmag a * 2 ^ 149) (fmag b))

/-- `fsqrt` (`00_scope.md` R12). The root of N units is `isqrt (N · 2^149)` units and a part below one unit,
which only matters for rounding when it is not zero. -/
def fsqrt (site : Site) (x : F32) : F32 :=
  if isNaN x then quietNaN site
  else if isZero x then x
  else if fsign x then quietNaN site
  else if isInf x then x
  else
    let n := fmag x * 2 ^ 149
    let y := isqrt n
    mkF false (roundMag (2 * y + (if y * y = n then 0 else 1)) 2)

/-- The order of a number that is not NaN; an infinity lies beyond every finite value. -/
def fkey (x : F32) : Int :=
  if isInf x then (if fsign x then -(2 ^ 400) else 2 ^ 400) else fval x

/-- `a < b` (`00_scope.md` R12): false when either side is NaN. -/
def flt (a b : F32) : Bool := !isNaN a && !isNaN b && decide (fkey a < fkey b)

/-- Finite and greater than zero: `0.0 < x and x < +inf`. -/
def isPosFinite (x : F32) : Bool := flt F32.zero x && flt x F32.inf

/-- `u2f` (`00_scope.md` R13): the nearest float to a natural number, ties to even. -/
def u2f (n : Nat) : F32 := mkF false (roundMag (n * 2 ^ 149) 1)

/-- `i2f` (`00_scope.md` R13). -/
def i2f (i : Int) : F32 := mkF (i < 0) (roundMag (i.natAbs * 2 ^ 149) 1)

/-- The integer part of the magnitude of a finite float. -/
def ftrunc (x : F32) : Nat := fmag x / 2 ^ 149

/-- `f2u32` (`00_scope.md` R13): truncate toward zero; NaN and negative give 0; saturate at 2^32 − 1. -/
def f2u32 (x : F32) : Word :=
  if isNaN x || fsign x then 0
  else if isInf x then BitVec.ofNat 32 (2 ^ 32 - 1)
  else BitVec.ofNat 32 (min (ftrunc x) (2 ^ 32 - 1))

/-- `f2i` (`00_scope.md` R13): truncate toward zero; NaN gives 0; saturate at 2^31 − 1 and −2^31. -/
def f2i (x : F32) : Int :=
  if isNaN x then 0
  else
    let m := if isInf x then 2 ^ 31 else ftrunc x
    if fsign x then -((min m (2 ^ 31) : Nat) : Int) else ((min m (2 ^ 31 - 1) : Nat) : Int)

end Sys2Proof.Machine
end

