-- ==== Sys2Proof/Machine/Operands.lean ====
section
/-! DEFINITION. Operand forms: lanes and elements (`00_scope.md` R14, `44_cluster.md` R231), zero extension (`30_encoding.md` R103), and the configuration functions (`00_scope.md` R10) but for BUILD_MIPMAPS, which stands in Bank.lean. -/

namespace Sys2Proof.Machine

/-- `lane(e) = e div 2` (`00_scope.md` R14). -/
def laneOf (e : Nat) : Nat := e / 2
/-- `ch(e) = e mod 2`: 0 left, 1 right (`00_scope.md` R14). -/
def chOf (e : Nat) : Nat := e % 2

/-- Bit ℓ of a lane mask. -/
def maskBit (m : Mask) (l : Nat) : Bool := m.getLsbD l

/-- `SEL(mask)`: both elements of each selected lane (`44_cluster.md` R231). -/
def sel (m : Mask) (e : Nat) : Bool := maskBit m (laneOf e)

/-- `splat(pL, pR)` (`00_scope.md` R14): the left value in even elements, the right in odd ones. -/
def splat (l r : F32) (e : Nat) : F32 := if chOf e = 0 then l else r

/-- A mask with bit ℓ set or cleared and every other bit kept. -/
def setMaskBit (m : Mask) (l : Nat) (b : Bool) : Mask :=
  if b then m ||| BitVec.ofNat 8 (2 ^ l) else m &&& ~~~ BitVec.ofNat 8 (2 ^ l)

/-- `clampi(x, lo, hi) = max(lo, min(hi, x))` (`00_scope.md` R11). -/
def clampi (x lo hi : Int) : Int := max lo (min hi x)

/-- `clz32` (`00_scope.md` R11), with `clz32(0) = 32`. -/
def clz32 (x : Word) : Nat := if x.toNat = 0 then 32 else 31 - Nat.log2 x.toNat

/-- `zext` of a header field to a word (`30_encoding.md` R103). -/
def zext (f : Field) : Word := f.setWidth 32

/-- Reads an arbitrary pattern as a value that is neither NaN nor negative, reaching every such value. -/
def clampNonneg (r : F32) : F32 :=
  if isNaN r then F32.inf else if fsign r && !isZero r then fnegate r else r

/-- A finite float that is an integer k with −126 ≤ k ≤ 127 (`00_scope.md` R10). -/
def exactExponent (x : F32) : Option Int :=
  if isFinite x && fmag x % 2 ^ 149 == 0 && -126 ≤ f2i x && f2i x ≤ 127 then some (f2i x) else none

/-- `EXP2` (`00_scope.md` R10): `EXP2(0.0) = 1.0`, never negative and never NaN for finite x, otherwise open, the same
for every NaN (`70_reset_and_hazards.md` R353); in a build with the integer-exactness property, `EXP2(k) = 2^k`. -/
def exp2 (k : Config) (x : F32) : F32 :=
  if x = F32.zero then F32.one
  else
    let open_ := if isFinite x then clampNonneg (Config.exp2Open x) else Config.exp2Open (payloadFree x)
    if k.exp2IntegerExact then
      match exactExponent x with
      | some i => BitVec.ofNat 32 ((i + 127).toNat * 2 ^ 23)
      | none => open_
    else open_

/-- `POW` (`00_scope.md` R10): `POW(1.0, t) = 1.0`, `POW(b, 1.0) = b`, `POW(b, 0.0) = 1.0`; for positive finite b
and finite t neither negative nor NaN; otherwise open, the same for every NaN (`70_reset_and_hazards.md` R353). -/
def pow (b t : F32) : F32 :=
  if b = F32.one then F32.one
  else if t = F32.one then b
  else if t = F32.zero then F32.one
  else if isPosFinite b && isFinite t then fabs (clampNonneg (Config.powOpen b t))
  else Config.powOpen (payloadFree b) (payloadFree t)

/-- `MAP_p` (`00_scope.md` R10), default identity. -/
def mapParam (k : Config) (p : Nat) (x : F32) : F32 :=
  match k.mapParam with
  | .specDefault => x
  | .other => Config.mapOpen p x

/-- The default `DETUNE_ROW(n)[q]` (`43_unison_voice.md` R204): pairs `+k/h, −k/h`, innermost first, a leading
0.0 for odd n. -/
def detuneDefault (n q : Nat) : F32 :=
  let h := n / 2
  let mag := fun (k : Nat) => fdiv [] (i2f k) (i2f h)
  if n % 2 = 1 then
    if q = 0 then F32.zero
    else if q % 2 = 1 then mag ((q + 1) / 2) else fnegate (mag (q / 2))
  else
    if q % 2 = 0 then mag (q / 2 + 1) else fnegate (mag ((q + 1) / 2))

/-- The contract of `DETUNE_ROW(n)` (`43_unison_voice.md` R203): every value in [−1, 1]; a zero first for odd n;
then pairs of equal magnitude and opposite sign, magnitudes never falling, every pair beginning with the same
sign. The sum of such a row is 0. -/
def detuneContract (n : Nat) (row : Nat → F32) : Bool :=
  let o := n % 2
  (List.range n).all (fun q => (fabs (row q)).toNat ≤ F32.one.toNat)
  && (o == 0 || isZero (row 0))
  && (List.range (n / 2)).all (fun k =>
        row (o + 2 * k + 1) == fnegate (row (o + 2 * k))
        && fsign (row (o + 2 * k)) == fsign (row o)
        && (k == 0 || (fabs (row (o + 2 * (k - 1)))).toNat ≤ (fabs (row (o + 2 * k))).toNat))

/-- `DETUNE_ROW(n)[q]` (`00_scope.md` R10): the default, or any row that meets the contract of
`43_unison_voice.md` R203. -/
def detuneRow (k : Config) (n q : Nat) : F32 :=
  match k.detuneRow with
  | .specDefault => detuneDefault n q
  | .other =>
    if detuneContract n (Config.detuneRowOpen n) then Config.detuneRowOpen n q else detuneDefault n q

/-- `FRAME_SPREAD(n, q)` (`43_unison_voice.md` R208), default 0.0. -/
def frameSpread (k : Config) (n q : Nat) : F32 :=
  match k.frameSpread with
  | .specDefault => F32.zero
  | .other => Config.frameSpreadOpen n q

/-- Sums the elements of channel `ch` of `acc` in the order of a tree. -/
def sumTree (site : Site) (acc : List F32) (ch : Nat) : SumTree → F32
  | .leaf j => acc.getD (2 * j + ch) F32.zero
  | .node l r => fadd site (sumTree (0 :: site) acc ch l) (sumTree (1 :: site) acc ch r)

/-- The orders in which `FOLD` adds the left and the right elements: ascending by default (`43_unison_voice.md`
R213), else the build's own for each channel, which may differ (assumption 7). -/
def foldTrees (k : Config) : SumTree × SumTree :=
  k.foldOrder.getD (SumTree.ascending (k.v - 1), SumTree.ascending (k.v - 1))

/-- `FOLD(acc)` (`43_unison_voice.md` R213): left elements to the left output, right to the right. -/
def fold (k : Config) (site : Site) (acc : List F32) : F32 × F32 :=
  (sumTree (0 :: site) acc 0 (foldTrees k).1, sumTree (1 :: site) acc 1 (foldTrees k).2)

end Sys2Proof.Machine
end

