-- ==== Sys2Proof/Machine/Ops.lean ====
section
/-! DEFINITION. The shared operations: ending a command (`60_exceptions.md` R305, `30_encoding.md` R108), the checks before a command (R302, R303), memories (`20_memory.md` R70 to R75), reading and writing vectors, clusters and slots. -/

namespace Sys2Proof.Machine

/-- `respond(OK, payload)` (`00_scope.md` R15, `30_encoding.md` R108): the two response words. -/
def respond (s : State) (payload : Word) : Host.Outcome State Fault Refusal :=
  .next { s with rspPort := s.rspPort ++ [rsp0 0, payload] }

/-- The state after `raise e(info)`: only the sticky bit and the response (`60_exceptions.md` R305). -/
def raised (s : State) (e : Err) (info : Word) : State :=
  { s with errstat := errstatSet s.errstat e, rspPort := s.rspPort ++ [rsp0 (errCode e), info] }

/-- `raise e(info)`, the one way a command fails (`60_exceptions.md` R305): the block's whole exception entry.
There is no return from it to model (R314, R315). -/
def raise (s : State) (e : Err) (info : Word) : Host.Outcome State Fault Refusal := .next (raised s e info)

/-- One check of a command: whether it fails, with which error and info. -/
abbrev Check := Bool × Err × Word

/-- Makes a command's checks in order, all before any write; the first that fails is the error the command
reports (`60_exceptions.md` R303, R304). -/
def checked (s : State) (checks : List Check) (body : Host.Outcome State Fault Refusal) :
    Host.Outcome State Fault Refusal :=
  match checks with
  | [] => body
  | (fails, e, info) :: rest => if fails then raise s e info else checked s rest body

/-- The check `INITIALIZED = 1`, else `E_NOT_INIT` (`60_exceptions.md` R302). -/
def checkInit (s : State) : Check := (!s.initialized, .notInit, 0)

/-- The check `c < C`, else `E_CLUSTER_RANGE` (`60_exceptions.md` R302). -/
def checkCluster (s : State) (c : Field) : Check := (s.numClusters.toNat ≤ c.toNat, .clusterRange, zext c)

/-- The check `lane < V`, else `E_LANE_RANGE` (`60_exceptions.md` R302). -/
def checkLane (s : State) (l : Field) : Check := (s.cfg.v ≤ l.toNat, .laneRange, zext l)

/-- The value listed for an element, if any. -/
def Memory.lookup : Memory → Nat → Option F32
  | [], _ => none
  | (a, x) :: rest, b => if a = b then some x else Memory.lookup rest b

/-- Writes one element, keeping the addresses strictly rising (`20_memory.md` R70). -/
def Memory.write : Memory → Nat → F32 → Memory
  | [], b, y => [(b, y)]
  | (a, x) :: rest, b, y =>
    if b < a then (b, y) :: (a, x) :: rest
    else if b = a then (b, y) :: rest
    else (a, x) :: Memory.write rest b y

/-- The canonical form: addresses strictly rising and inside the space of `size` elements. An unlisted element
holds no written value, so that no listed one can equal it. -/
def Memory.wf (size : Nat) : Memory → Bool
  | [] => true
  | (a, _) :: rest => decide (a < size) && rest.all (fun p => decide (a < p.1)) && Memory.wf size rest

/-- `MemRead(IMPORT, a)` (`00_scope.md` R15): an element nothing has written is a free value
(`10_state.md` R50, U14; assumption 5). -/
def importRead (m : Memory) (a : Nat) : F32 := (m.lookup a).getD (Config.powerOnImport a)

/-- Writes a list of elements from address a upward. -/
def Memory.writeList : Memory → Nat → List F32 → Memory
  | m, _, [] => m
  | m, a, x :: xs => Memory.writeList (m.write a x) (a + 1) xs

/-- Visits the elements of a list in ascending order with their index, threading an accumulator. -/
def mapAcc {α σ : Type} (f : Nat → α → σ → α × σ) : Nat → List α → σ → List α × σ
  | _, [], acc => ([], acc)
  | i, x :: xs, acc =>
    let (y, acc1) := f i x acc
    let (ys, acc2) := mapAcc f (i + 1) xs acc1
    (y :: ys, acc2)

/-- `S.cur[e]` of a linear smoother. -/
def linCur (c : Lin) (e : Nat) : F32 := (c.getD e ⟨F32.zero, F32.zero⟩).cur
/-- `S.cur[e]` of a logarithmic smoother. -/
def logCur (c : Log) (e : Nat) : F32 := (c.getD e ⟨F32.zero, F32.one⟩).cur

/-- `P[c][p]` of a cluster (`10_state.md` R38). -/
def Cluster.param (cl : Cluster) (p : Nat) : Lin := cl.params.getD p []
/-- `P[c][p].cur[x]`. -/
def Cluster.cur (cl : Cluster) (p x : Nat) : F32 := linCur (cl.param p) x
/-- `base_pinc[c][x]` (`10_state.md` R40). -/
def Cluster.base (cl : Cluster) (x : Nat) : F32 := cl.basePinc.getD x F32.zero

/-- Cluster c of the pool. -/
def State.cluster (s : State) (c : Nat) : Cluster := s.clusters.getD c default
/-- The state with cluster c replaced. -/
def State.setCluster (s : State) (c : Nat) (cl : Cluster) : State :=
  { s with clusters := s.clusters.set c cl }

/-- Bank slot s. -/
def State.bank (s : State) (slot : Nat) : BankSlot := s.banks.getD slot ⟨false, 0, []⟩
/-- `MemRead(BANK[s], a)` (`00_scope.md` R15). -/
def BankSlot.read (b : BankSlot) (a : Nat) : F32 := b.data.getD a F32.zero

/-- The parameter ids (`10_state.md` R39, `30_encoding.md` R107). -/
abbrev pDetune : Nat := 0
abbrev pDetuneRange : Nat := 1
abbrev pTranspose : Nat := 2
abbrev pFrame : Nat := 3
abbrev pRandom : Nat := 4
abbrev pLevel : Nat := 5
abbrev pStereo : Nat := 6
abbrev pPan : Nat := 7
abbrev pUnison : Nat := 8

/-- Gives the command that computes floats its own seed of NaN draws and moves the seed on (assumption 4). -/
def State.nextNan (s : State) : State := { s with nanSeed := s.nanSeed + 1 }

end Sys2Proof.Machine
end

