-- ==== Sys2Proof/Machine/Smoothers.lean ====
section
/-! DEFINITION. The smoothing primitives (`40_smoothers.md` R130 to R138). -/

namespace Sys2Proof.Machine

/-- `RECIP(N)` (`40_smoothers.md` R130); N ≥ 1, so that the quotient is no NaN and the site does not matter. -/
def recip (n : Nat) : F32 := fdiv [] F32.one (u2f n)

/-- `LIN.SNAP(S, target, sel)` (`40_smoothers.md` R131). -/
def linSnap (c : Lin) (target : Nat → F32) (on : Nat → Bool) : Lin :=
  c.mapIdx fun e x => if on e then ⟨target e, F32.zero⟩ else x

/-- `LIN.SET(S, target, t, sel)` (`40_smoothers.md` R132). -/
def linSet (site : Site) (c : Lin) (target : Nat → F32) (t : F32) (on : Nat → Bool) : Lin :=
  c.mapIdx fun e x =>
    if on e then { x with inc := fmul (0 :: e :: site) (fsub (1 :: e :: site) (target e) x.cur) t } else x

/-- `LIN.TICK1(S)` (`40_smoothers.md` R133). -/
def linTick1 (site : Site) (c : Lin) : Lin :=
  c.mapIdx fun e x => { x with cur := fadd (e :: site) x.cur x.inc }

/-- `LIN.TICKN(S, n)` (`40_smoothers.md` R134): one multiplication and one addition. -/
def linTickN (site : Site) (c : Lin) (n : Nat) : Lin :=
  c.mapIdx fun e x => { x with cur := fadd (0 :: e :: site) x.cur (fmul (1 :: e :: site) x.inc (u2f n)) }

/-- `LOG.SNAP(S, target, sel)` (`40_smoothers.md` R135). -/
def logSnap (c : Log) (target : Nat → F32) (on : Nat → Bool) : Log :=
  c.mapIdx fun e x => if on e then ⟨target e, F32.one⟩ else x

/-- One cell of `LOG.SET` (`40_smoothers.md` R136): a geometric ramp between positive finite values, else a snap.
The quotient of two such values is no NaN, so that the site does not matter. -/
def logSetCell (x : LogCell) (g t : F32) : LogCell :=
  if isPosFinite x.cur && isPosFinite g then { x with fac := pow (fdiv [] g x.cur) t } else ⟨g, F32.one⟩

/-- `LOG.SET(S, target, t, sel)` (`40_smoothers.md` R136). -/
def logSet (c : Log) (target : Nat → F32) (t : F32) (on : Nat → Bool) : Log :=
  c.mapIdx fun e x => if on e then logSetCell x (target e) t else x

/-- `LOG.TICK1(S)` (`40_smoothers.md` R137). -/
def logTick1 (site : Site) (c : Log) : Log :=
  c.mapIdx fun e x => { x with cur := fmul (e :: site) x.cur x.fac }

/-- `LOG.TICKN(S, n)` (`40_smoothers.md` R138): no command uses it. -/
def logTickN (site : Site) (c : Log) (n : Nat) : Log :=
  c.mapIdx fun e x =>
    if isPosFinite x.fac then { x with cur := fmul (e :: site) x.cur (pow x.fac (u2f n)) } else x

end Sys2Proof.Machine
end

