-- ==== Sys2Proof/Machine/Bank.lean ====
section
/-! DEFINITION. The wavetable bank (`41_bank.md`): BUILD_MIPMAPS, LEVEL, SPLIT, RESAMPLE, RESAMPLE.VEC, RESAMPLE.MASKED, and the commands BLOAD and REPLACE. -/

namespace Sys2Proof.Machine

/-- `bank_addr(fi, m, i)` (`20_memory.md` R72). -/
def bankAddr (k : Config) (fi m i : Nat) : Nat := (fi * k.numMipmaps + m) * k.tableSize + i

/-- `PARTIALS(m) = floor(2^(m−1))` (`41_bank.md` R152). -/
def partials (m : Nat) : Nat := 2 ^ m / 2

/-- `cos(2π·j/T)` for T = 2^octaves as a signed basis element `cos(2π·b/T)`, 0 ≤ b < max(1, T/4): the sign is
−1, 0 or 1. -/
def cosReduce (octaves j : Nat) : Int × Nat :=
  let t := 2 ^ octaves
  let a := j % t
  let b := if 2 * a > t then t - a else a
  if 4 * b = t then (0, 0) else if 4 * b > t then (-1, t / 2 - b) else (1, b)

/-- The coefficient of `cos(2π·b/T)` in `T · 2^149 · y_m[i]` (`41_bank.md` R153): bin k, 0 ≤ k ≤ `PARTIALS(m)`,
contributes `w · x[i'] · cos(2π·k·(i − i')/T)` with w = 1 for the bins 0 and T/2 and 2 for the others. -/
def mipCoeff (octaves : Nat) (frame : List F32) (m i b : Nat) : Int :=
  let t := 2 ^ octaves
  (frame.zipIdx.map (fun p =>
    ((List.range (partials m + 1)).map (fun k =>
      let r := cosReduce octaves (k * (i + (t - p.2)))
      if r.2 = b then r.1 * (if k = 0 ∨ 2 * k = t then 1 else 2) * fval p.1 else 0)).sum)).sum

/-- `cos(2π·j/2^octaves)` for 0 ≤ 4·j ≤ 2^octaves, in units of 2^−prec, by half angles: an odd index takes
`sqrt((1 + cos 2θ)/2)`. -/
def cosFixed (prec : Nat) : Nat → Nat → Nat
  | 0, _ => 2 ^ prec
  | o + 1, j =>
    if j % 2 = 0 then cosFixed prec o (j / 2)
    else
      -- cos of twice the angle: index j of a circle of 2^o steps, reduced to the first quadrant
      let t := 2 ^ o
      if 4 * j = t then isqrt (2 ^ (2 * prec - 1))
      else if 4 * j < t then isqrt ((2 ^ prec + cosFixed prec o j) * 2 ^ prec / 2)
      else if 2 * j ≤ t then isqrt ((2 ^ prec - cosFixed prec o (t / 2 - j)) * 2 ^ prec / 2)
      else 0

/-- The precision at which rounding the approximate sum is rounding the exact number: twice the sum less a
rounding boundary is an algebraic integer of degree d ≤ max(1, T/4) whose conjugates are below
2^(281 + 2·octaves), so that it is zero only for a rational sum (handled apart) and otherwise at least
2^−((d − 1)·(281 + 2·octaves)), above the error of the fixed-point cosines (assumption 10). -/
def mipPrecision (octaves : Nat) : Nat := 400 * (2 ^ octaves / 4 + 2) + 40 * octaves

/-- The default `BUILD_MIPMAPS` (`41_bank.md` R153): `y_m[i]` of a finite frame, the exact real number rounded
to the nearest float. -/
def mipExact (octaves : Nat) (frame : List F32) (m i : Nat) : F32 :=
  let t := 2 ^ octaves
  let coeffs := (List.range (max 1 (t / 4))).map (mipCoeff octaves frame m i)
  match coeffs with
  | [] => F32.zero
  | a0 :: rest =>
    if rest.all (· == 0) then
      (if a0 = 0 then F32.zero else mkF (a0 < 0) (roundMag a0.natAbs t))
    else
      let p := mipPrecision octaves
      let sum := (coeffs.zipIdx.map (fun q => q.1 * (cosFixed p octaves q.2 : Int))).sum
      mkF (sum < 0) (roundMag sum.natAbs (t * 2 ^ p))

/-- `BUILD_MIPMAPS(x)`, level m, sample i (`41_bank.md` R153, R155, R166): the full-bandwidth level is the frame
itself; below it the default transform of a finite frame, else an open value (U4, U7). -/
def buildMipmap (k : Config) (frame : List F32) (m i : Nat) : F32 :=
  if m = k.numOctaves then frame.getD i F32.zero
  else
    match k.buildMipmaps with
    | .specDefault =>
      if frame.all isFinite then mipExact k.numOctaves frame m i else Config.buildOpen frame m i
    | .other => Config.buildOpen frame m i

/-- Frame f of an import at `src` (`20_memory.md` R74). -/
def importFrame (s : State) (src f : Nat) : List F32 :=
  (List.range s.cfg.tableSize).map (fun i => importRead s.importMem (src + f * s.cfg.tableSize + i))

/-- The contents of one frame of a slot: level 0 first, sample 0 first (`20_memory.md` R72). -/
def frameData (k : Config) (frame : List F32) : List F32 :=
  (List.range k.numMipmaps).flatMap (fun m => (List.range k.tableSize).map (fun i => buildMipmap k frame m i))

/-- The contents of a slot of `frames` frames built from IMPORT at `src` (`41_bank.md` R168). -/
def bankData (s : State) (src frames : Nat) : List F32 :=
  (List.range frames).flatMap (fun f => frameData s.cfg (importFrame s src f))

/-- `LEVEL(delta)` (`41_bank.md` R158). -/
def level (k : Config) (delta : Word) : Nat := min k.numOctaves (clz32 delta)

/-- `idx` of `SPLIT(phase)` (`41_bank.md` R159). -/
def splitIdx (k : Config) (phase : Word) : Nat := phase.toNat / 2 ^ k.fracBits

/-- `2^−FRAC_BITS` as a float; 1 ≤ FRAC_BITS ≤ 31. -/
def fracScale (k : Config) : F32 := BitVec.ofNat 32 ((127 - k.fracBits) * 2 ^ 23)

/-- `frac` of `SPLIT(phase)` (`41_bank.md` R159); both factors are finite, so that the site does not matter. -/
def splitFrac (k : Config) (phase : Word) : F32 :=
  fmul [] (u2f (phase.toNat % 2 ^ k.fracBits)) (fracScale k)

/-- `RESAMPLE(slot, delta, fi, phase)` for one element (`41_bank.md` R160). -/
def resample (k : Config) (site : Site) (bank : BankSlot) (delta : Word) (fi : Nat) (phase : Word) : F32 :=
  let m := level k delta
  let base := (m + fi * k.numMipmaps) * k.tableSize
  let idx := splitIdx k phase
  let a := bank.read (base + idx)
  let b := bank.read (base + (idx + 1) % k.tableSize)
  fadd (0 :: site) a (fmul (1 :: site) (fsub (2 :: site) b a) (splitFrac k phase))

/-- `RESAMPLE.VEC` (`41_bank.md` R161): each element on its own. -/
def resampleVec (k : Config) (site : Site) (bank : BankSlot) (lookups : List (Word × Nat × Word)) : List F32 :=
  lookups.mapIdx fun e l => resample k (e :: site) bank l.1 l.2.1 l.2.2

/-- `RESAMPLE.MASKED` (`41_bank.md` R162): a masked-off element is `+0.0` and reads nothing. -/
def resampleMasked (k : Config) (site : Site) (bank : BankSlot) (lookups : List (Word × Nat × Word))
    (omask : Mask) : List F32 :=
  lookups.mapIdx fun e l => if sel omask e then resample k (e :: site) bank l.1 l.2.1 l.2.2 else F32.zero

/-- `BLOAD slot, src, count` (`41_bank.md` R168). -/
def execBload (slot : Field) (src count : Word) (s : State) : Host.Outcome State Fault Refusal :=
  let k := s.cfg
  let frames := count.toNat / k.tableSize
  checked s
    [ (decide (k.numBankSlots ≤ slot.toNat), .bankSlot, zext slot),
      (s.activeBank.valid && s.activeBank.slot == slot, .bankSlot, zext slot),
      (decide (k.importSize < src.toNat + count.toNat), .argRange, count),
      (decide (count.toNat = 0) || decide (count.toNat % k.tableSize ≠ 0) || decide (k.maxFrames < frames),
        .bankFormat, count) ]
    (respond
      { s with banks := s.banks.set slot.toNat ⟨true, frames, bankData s src.toNat frames⟩ }
      (BitVec.ofNat 32 frames))

/-- `REPLACE slot` (`41_bank.md` R171): one register write; the payload is the old status register 4. -/
def execReplace (slot : Field) (s : State) : Host.Outcome State Fault Refusal :=
  checked s
    [ (decide (s.cfg.numBankSlots ≤ slot.toNat) || !(s.bank slot.toNat).valid, .bankSlot, zext slot) ]
    (respond { s with activeBank := ⟨true, slot⟩ } (activeBankWord s.activeBank))

end Sys2Proof.Machine
end

