-- ==== Sys2Proof/Machine/Oscillator.lean ====
section
/-! DEFINITION. The oscillator (`42_oscillator.md`): DELTA, START, OSC.SETINST, OSC.SETSMOOTH, FRAMEIDX, OSC.REMASK, OSC.STEP. -/

namespace Sys2Proof.Machine

/-- `DELTA(x)` (`42_oscillator.md` R182); a NaN product converts to 0 whatever its payload. -/
def delta (x : F32) : Word := f2u32 (fmul [] x F32.two32)

/-- `START(r, u)` (`42_oscillator.md` R184): `f2u32(fmul(r, u2f(u)))`. A zero, negative or NaN amount gives 0 for
every draw, so that the draw is looked at only otherwise (the statement IncrementAndStartingPhase is that the
guard changes nothing). -/
def start (r : F32) (u : Word) : Word :=
  if isZero r || fsign r || isNaN r then 0 else f2u32 (fmul [] r (u2f u.toNat))

/-- `FRAMEIDX(x, slot)` (`42_oscillator.md` R188). -/
def frameIdx (x : F32) (bank : BankSlot) : Nat := (clampi (f2i x) 0 ((bank.numFrames : Int) - 1)).toNat

/-- `OSC.SETINST(o, tp, tf, sel)` (`42_oscillator.md` R185). -/
def oscSetInst (o : Osc) (tp tf : Nat → F32) (on : Nat → Bool) : Osc :=
  { o with pinc := logSnap o.pinc tp on, frame := linSnap o.frame tf on }

/-- `OSC.SETSMOOTH(o, tp, tf, t, sel)` (`42_oscillator.md` R187). -/
def oscSetSmooth (site : Site) (o : Osc) (tp tf : Nat → F32) (t : F32) (on : Nat → Bool) : Osc :=
  { o with pinc := logSet o.pinc tp t on, frame := linSet site o.frame tf t on }

/-- The elements that OSC.REMASK turns on (`42_oscillator.md` R190). -/
def rising (o : Osc) (newmask : Mask) (e : Nat) : Bool := sel newmask e && !sel o.omask e

/-- `OSC.REMASK(o, newmask, r)` (`42_oscillator.md` R190): each rising element, in ascending order, takes the next
draw; `draws` counts them. -/
def oscRemask (o : Osc) (newmask : Mask) (r : Nat → F32) (draws : Nat) : Osc × Nat :=
  let p := mapAcc
    (fun e ph n => if rising o newmask e then (start (r e) (Config.draw32 n), n + 1) else (ph, n))
    0 o.phase draws
  ({ o with phase := p.1, omask := newmask }, p.2)

/-- Every element of an oscillator takes a fresh starting phase, in ascending order (`44_cluster.md` R257). -/
def oscReseed (o : Osc) (r : Nat → F32) (draws : Nat) : Osc × Nat :=
  let p := mapAcc (fun e _ n => (start (r e) (Config.draw32 n), n + 1)) 0 o.phase draws
  ({ o with phase := p.1 }, p.2)

/-- The increments of an oscillator, one u32 for each element (`42_oscillator.md` R186). -/
def oscDeltas (pinc : Log) : List Word := pinc.map (fun x => delta x.cur)

/-- `OSC.STEP(o, slot)` (`42_oscillator.md` R186): smoothers tick, phases advance modulo 2^32, frame indices are
taken, the masked lookup reads the bank. -/
def oscStep (k : Config) (site : Site) (bank : BankSlot) (o : Osc) : Osc × List F32 :=
  let pinc := logTick1 (0 :: site) o.pinc
  let frame := linTick1 (1 :: site) o.frame
  let deltas := oscDeltas pinc
  let phase := o.phase.mapIdx (fun e p => p + deltas.getD e 0)
  let lookups := phase.mapIdx (fun e p => (deltas.getD e 0, frameIdx (linCur frame e) bank, p))
  ({ o with pinc := pinc, frame := frame, phase := phase },
   resampleMasked k (2 :: site) bank lookups o.omask)

end Sys2Proof.Machine
end

