-- ==== Sys2Proof/Machine/Unison.lean ====
section
/-! DEFINITION. The unison voice (`43_unison_voice.md`): UNISON_COUNT, PACK, DETUNE_ROM, RATIO, NOTE_INC, UV.TARGETS, UV.CONFIG, UV.SETINST, UV.SETSMOOTH, UV.PROCESS. -/

namespace Sys2Proof.Machine

/-- `UNISON_COUNT(x)` (`43_unison_voice.md` R202). -/
def unisonCount (k : Config) (x : F32) : Nat := (clampi (f2i x) 1 k.maxUnison).toNat

/-- The group count G of `PACK(n)` (`43_unison_voice.md` R205). -/
def packGroups (k : Config) (n : Nat) : Nat := (n + k.v - 1) / k.v

/-- The size r of the last group of `PACK(n)` (`43_unison_voice.md` R205). -/
def packTail (k : Config) (n : Nat) : Nat := n - (packGroups k n - 1) * k.v

/-- `mask[g]` of `PACK(n)` (`43_unison_voice.md` R205): full groups, the right-aligned tail group, unused
groups. -/
def packMask (k : Config) (n g : Nat) : Mask :=
  if g + 1 < packGroups k n then BitVec.ofNat 8 (2 ^ k.v - 1)
  else if g + 1 = packGroups k n then BitVec.ofNat 8 (2 ^ k.v - 2 ^ (k.v - packTail k n))
  else 0

/-- The copy that sits in group g, lane j under `PACK(n)` (`43_unison_voice.md` R205). -/
def copyAt (k : Config) (n g j : Nat) : Option Nat :=
  if g + 1 < packGroups k n then some (g * k.v + j)
  else if g + 1 = packGroups k n ∧ k.v - packTail k n ≤ j then
    some (g * k.v + (j - (k.v - packTail k n)))
  else none

/-- `DETUNE_ROM[n][g][j]` (`43_unison_voice.md` R205, `10_state.md` R46). -/
def detuneRom (k : Config) (n g j : Nat) : F32 :=
  match copyAt k n g j with
  | some q => detuneRow k n q
  | none => F32.zero

/-- `RATIO(s)` (`43_unison_voice.md` R214). -/
def ratio (k : Config) (site : Site) (s : F32) : F32 := exp2 k (fdiv site s F32.twelve)

/-- `NOTE_INC(note)` (`43_unison_voice.md` R216). -/
def noteInc (k : Config) (site : Site) (sampleRate : F32) (note : Nat) : F32 :=
  fdiv (0 :: site)
    (fmul (1 :: site) F32.a440 (exp2 k (fdiv (2 :: site) (i2f ((note : Int) - 69)) F32.twelve)))
    sampleRate

/-- `semis` of `UV.TARGETS` at group g, element e of the voice of lane ℓ (`43_unison_voice.md` R206): the copy's
share of the detune spread plus the transposition. -/
def semitones (k : Config) (site : Site) (cl : Cluster) (l n g e : Nat) : F32 :=
  let x := 2 * l + chOf e
  let at_ := g :: e :: site
  let spread := fmul (0 :: at_) (cl.cur pDetune x) (cl.cur pDetuneRange x)
  fadd (1 :: at_) (fmul (2 :: at_) (detuneRom k n g (laneOf e)) spread) (cl.cur pTranspose x)

/-- The phase-increment target of group g, element e of the voice of lane ℓ (`43_unison_voice.md` R206). -/
def targetPinc (k : Config) (site : Site) (cl : Cluster) (l n g e : Nat) : F32 :=
  let at_ := g :: e :: site
  fmul (3 :: at_) (cl.base (2 * l + chOf e)) (ratio k (4 :: at_) (semitones k site cl l n g e))

/-- The frame target of group g, element e of the voice of lane ℓ (`43_unison_voice.md` R207). -/
def targetFrame (k : Config) (site : Site) (cl : Cluster) (l n g e : Nat) : F32 :=
  let x := 2 * l + chOf e
  match copyAt k n g (laneOf e) with
  | some q => fadd (g :: e :: site) (cl.cur pFrame x) (frameSpread k n q)
  | none => cl.cur pFrame x

/-- The group loop body of `UV.CONFIG` (`43_unison_voice.md` R209). `ramp` is `none` for the instant form and the
float t for the smoothed one. -/
def configGroup (k : Config) (site : Site) (cl : Cluster) (l n : Nat) (ramp : Option F32) (g : Nat) (o : Osc)
    (draws : Nat) : Osc × Nat :=
  let mask := packMask k n g
  let tp := targetPinc k (0 :: site) cl l n g
  let tf := targetFrame k (1 :: site) cl l n g
  let r := splat (cl.cur pRandom (2 * l)) (cl.cur pRandom (2 * l + 1))
  let up := rising o mask
  let q := oscRemask o mask r draws
  match ramp with
  | none => (oscSetInst q.1 tp tf (sel mask), q.2)
  | some t =>
    (oscSetSmooth (g :: 2 :: site) (oscSetInst q.1 tp tf up) tp tf t (fun e => sel mask e && !up e), q.2)

/-- `UV.CONFIG(c, ℓ, instant, t)` (`43_unison_voice.md` R209) on the voice of lane ℓ of a cluster. -/
def uvConfig (k : Config) (site : Site) (cl : Cluster) (l : Nat) (ramp : Option F32) (uv : Voice) (draws : Nat) :
    Voice × Nat :=
  let n := unisonCount k (cl.cur pUnison (2 * l))
  let p := mapAcc (configGroup k site cl l n ramp) 0 uv.osc draws
  (⟨n, packGroups k n, packMask k n (packGroups k n - 1), p.1⟩, p.2)

/-- `UV.SETINST(c, ℓ)` (`43_unison_voice.md` R210). -/
def uvSetInst (k : Config) (site : Site) (cl : Cluster) (l : Nat) (uv : Voice) (draws : Nat) : Voice × Nat :=
  uvConfig k site cl l none uv draws

/-- `UV.SETSMOOTH(c, ℓ, t)` (`43_unison_voice.md` R211). -/
def uvSetSmooth (k : Config) (site : Site) (cl : Cluster) (l : Nat) (t : F32) (uv : Voice) (draws : Nat) :
    Voice × Nat :=
  uvConfig k site cl l (some t) uv draws

/-- Adds a vector to an accumulator, element by element. -/
def addVec (site : Site) (acc v : List F32) : List F32 :=
  acc.mapIdx fun e a => fadd (e :: site) a (v.getD e F32.zero)

/-- `UV.PROCESS(c, ℓ, slot)` (`43_unison_voice.md` R212): the groups in use step in ascending order and add into
an accumulator that starts at `+0.0`; the others do not step; the accumulator folds to a stereo pair. -/
def uvProcess (k : Config) (site : Site) (bank : BankSlot) (uv : Voice) : Voice × F32 × F32 :=
  let p := mapAcc
    (fun g o acc =>
      if g < uv.nOsc then
        let q := oscStep k (g :: 0 :: site) bank o
        (q.1, addVec (g :: 1 :: site) acc q.2)
      else (o, acc))
    0 uv.osc (List.replicate k.e F32.zero)
  ({ uv with osc := p.1 }, fold k (2 :: site) p.2)

end Sys2Proof.Machine
end

