-- ==== Sys2Proof/Machine/Cluster.lean ====
section
/-! DEFINITION. The voice cluster (`44_cluster.md`): CL.TICKN, TRIPAN, CL.WEIGHTS, CL.ACTIVATE, CL.DEACTIVATE, CL.STEP, and the commands SETP, SETPS, VON, VOFF, MOVE, RESET, PROCESS. -/

namespace Sys2Proof.Machine

/-- `SETP c, mask, id, value` (`44_cluster.md` R232). -/
def execSetp (c : Field) (mask : Mask) (id : Field) (value : F32) (s : State) :
    Host.Outcome State Fault Refusal :=
  checked s [checkInit s, checkCluster s c]
    (if 8 < id.toNat then respond s 0
     else
      let cl := s.cluster c.toNat
      let x := mapParam s.cfg id.toNat value
      let p := linSnap (cl.param id.toNat) (splat x x) (sel mask)
      respond (s.setCluster c.toNat { cl with params := cl.params.set id.toNat p }) 0)

/-- `SETPS c, mask, id, value, samples` (`44_cluster.md` R234). -/
def execSetps (c : Field) (mask : Mask) (id : Field) (value : F32) (samples : Word) (s : State) :
    Host.Outcome State Fault Refusal :=
  checked s [checkInit s, checkCluster s c]
    (if 8 < id.toNat then respond s 0
     else
      let cl := s.cluster c.toNat
      let x := mapParam s.cfg id.toNat value
      let p :=
        if samples.toNat = 0 then linSnap (cl.param id.toNat) (splat x x) (sel mask)
        else linSet [s.nanSeed] (cl.param id.toNat) (splat x x) (recip samples.toNat) (sel mask)
      respond (s.nextNan.setCluster c.toNat { cl with params := cl.params.set id.toNat p }) 0)

/-- `CL.TICKN(c, n)` (`44_cluster.md` R236): the nine parameter smoothers, not the weights. -/
def clTickN (site : Site) (cl : Cluster) (n : Nat) : Cluster :=
  { cl with params := cl.params.mapIdx fun p c => linTickN (p :: site) c n }

/-- `TRIPAN(p, ch)` (`44_cluster.md` R239). -/
def tripan (site : Site) (p : F32) (ch : Nat) : F32 := if ch = 0 then fsub site F32.one p else p

/-- `pw` of `CL.WEIGHTS(c)` at element x (`44_cluster.md` R240). -/
def panWeight (k : Config) (site : Site) (cl : Cluster) (x : Nat) : F32 :=
  fdiv (0 :: x :: site) (tripan (1 :: x :: site) (cl.cur pPan x) (chOf x))
    (i2f (unisonCount k (cl.cur pUnison (2 * laneOf x))))

/-- `wn[x]` of `CL.WEIGHTS(c)` (`44_cluster.md` R240). -/
def weightNormal (k : Config) (site : Site) (cl : Cluster) (x : Nat) : F32 :=
  fmul (2 :: x :: site)
    (fsqrt (3 :: x :: site)
      (fmul (4 :: x :: site) (panWeight k site cl x) (fadd (5 :: x :: site) F32.one (cl.cur pStereo x))))
    (cl.cur pLevel x)

/-- `wf[x]` of `CL.WEIGHTS(c)` (`44_cluster.md` R240). -/
def weightFlipped (k : Config) (site : Site) (cl : Cluster) (x : Nat) : F32 :=
  fmul (6 :: x :: site)
    (fsqrt (7 :: x :: site)
      (fmul (8 :: x :: site) (panWeight k site cl x) (fsub (9 :: x :: site) F32.one (cl.cur pStereo x))))
    (cl.cur pLevel x)

/-- `CL.ACTIVATE(c)` (`44_cluster.md` R243): the hook snaps both weight smoothers, all elements. -/
def clActivate (k : Config) (site : Site) (cl : Cluster) : Cluster :=
  { cl with
    wn := linSnap cl.wn (weightNormal k site cl) (fun _ => true)
    wf := linSnap cl.wf (weightFlipped k site cl) (fun _ => true) }

/-- `CL.DEACTIVATE(c)` (`44_cluster.md` R244): writes no state. -/
def clDeactivate (cl : Cluster) : Cluster := cl

/-- The voice with the masks of all its oscillators cleared (`44_cluster.md` R245, R249). -/
def silence (uv : Voice) : Voice := { uv with osc := uv.osc.map fun o => { o with omask := 0 } }

/-- The voice of lane ℓ. -/
def Cluster.voice (cl : Cluster) (l : Nat) : Voice := cl.voices.getD l default

/-- The cluster after VON of lane ℓ with a note (`44_cluster.md` R245), and the draws taken so far. -/
def voiceOn (k : Config) (site : Site) (sampleRate : F32) (cl : Cluster) (l note : Nat) (draws : Nat) :
    Cluster × Nat :=
  let cl1 := if cl.laneActive = 0 then clActivate k (0 :: site) cl else cl
  let b := noteInc k (1 :: site) sampleRate note
  let cl2 := { cl1 with basePinc := (cl1.basePinc.set (2 * l) b).set (2 * l + 1) b }
  let p := uvSetInst k (2 :: site) cl2 l (silence (cl2.voice l)) draws
  ({ cl2 with voices := cl2.voices.set l p.1, laneActive := setMaskBit cl2.laneActive l true }, p.2)

/-- `VON c, lane, note` (`44_cluster.md` R245). -/
def execVon (c lane : Field) (note : BitVec 7) (s : State) : Host.Outcome State Fault Refusal :=
  checked s [checkInit s, checkCluster s c, checkLane s lane]
    (let p := voiceOn s.cfg [s.nanSeed] s.sampleRate (s.cluster c.toNat) lane.toNat note.toNat s.draws
     respond { s.nextNan.setCluster c.toNat p.1 with draws := p.2 } 0)

/-- The cluster after VOFF of an active lane ℓ (`44_cluster.md` R249). -/
def voiceOff (cl : Cluster) (l : Nat) : Cluster :=
  let cl1 := { cl with
    laneActive := setMaskBit cl.laneActive l false
    voices := cl.voices.set l (silence (cl.voice l)) }
  if cl1.laneActive = 0 then clDeactivate cl1 else cl1

/-- `VOFF c, lane` (`44_cluster.md` R249). -/
def execVoff (c lane : Field) (s : State) : Host.Outcome State Fault Refusal :=
  checked s [checkInit s, checkCluster s c, checkLane s lane]
    (let cl := s.cluster c.toNat
     if maskBit cl.laneActive lane.toNat then
       respond (s.setCluster c.toNat (voiceOff cl lane.toNat)) 0
     else respond s 0)

/-- Everything of `LANESTATE(c, ℓ)` (`10_state.md` R48), read before anything is written (`20_memory.md` R87). -/
structure LaneState where
  /-- elements 2ℓ and 2ℓ+1 of the nine parameters -/
  params : List (LinCell × LinCell)
  base : F32 × F32
  wn : LinCell × LinCell
  wf : LinCell × LinCell
  active : Bool
  voice : Voice
deriving DecidableEq, Repr

/-- Both elements of a lane of a linear smoother. -/
def linPair (c : Lin) (l : Nat) : LinCell × LinCell :=
  (c.getD (2 * l) default, c.getD (2 * l + 1) default)

/-- A linear smoother with both elements of a lane replaced. -/
def setLinPair (c : Lin) (l : Nat) (p : LinCell × LinCell) : Lin := (c.set (2 * l) p.1).set (2 * l + 1) p.2

/-- Reads `LANESTATE(c, ℓ)` of a cluster (`10_state.md` R48). -/
def getLane (cl : Cluster) (l : Nat) : LaneState where
  params := cl.params.map (fun c => linPair c l)
  base := (cl.base (2 * l), cl.base (2 * l + 1))
  wn := linPair cl.wn l
  wf := linPair cl.wf l
  active := maskBit cl.laneActive l
  voice := cl.voice l

/-- Writes `LANESTATE(c, ℓ)` of a cluster (`44_cluster.md` R253), and nothing else. -/
def putLane (cl : Cluster) (l : Nat) (x : LaneState) : Cluster where
  params := List.zipWith (fun c p => setLinPair c l p) cl.params x.params
  basePinc := (cl.basePinc.set (2 * l) x.base.1).set (2 * l + 1) x.base.2
  laneActive := setMaskBit cl.laneActive l x.active
  wn := setLinPair cl.wn l x.wn
  wf := setLinPair cl.wf l x.wf
  voices := cl.voices.set l x.voice

/-- `MOVE c1, l1, c2, l2` (`44_cluster.md` R253). -/
def execMove (c1 l1 c2 l2 : Field) (s : State) : Host.Outcome State Fault Refusal :=
  checked s [checkInit s, checkCluster s c1, checkCluster s c2, checkLane s l1, checkLane s l2]
    (if c1 = c2 ∧ l1 = l2 then respond s 0
     else
      let tmp := getLane (s.cluster c1.toNat) l1.toNat
      respond (s.setCluster c2.toNat (putLane (s.cluster c2.toNat) l2.toNat tmp)) 0)

/-- Every phase of lane ℓ of a cluster re-seeded (`44_cluster.md` R257). -/
def reseedVoice (cl : Cluster) (l : Nat) (uv : Voice) (draws : Nat) : Voice × Nat :=
  let r := splat (cl.cur pRandom (2 * l)) (cl.cur pRandom (2 * l + 1))
  let p := mapAcc (fun _ o n => oscReseed o r n) 0 uv.osc draws
  ({ uv with osc := p.1 }, p.2)

/-- `RESET c, mask` (`44_cluster.md` R257): lanes, groups and elements in ascending order. -/
def execReset (c : Field) (mask : Mask) (s : State) : Host.Outcome State Fault Refusal :=
  checked s [checkInit s, checkCluster s c]
    (let cl := s.cluster c.toNat
     let p := mapAcc (fun l uv n => if maskBit mask l then reseedVoice cl l uv n else (uv, n)) 0 cl.voices s.draws
     respond { s.setCluster c.toNat { cl with voices := p.1 } with draws := p.2 } 0)

/-- `swap` of the accumulator: the other channel of the same lane (`00_scope.md` R14). -/
def swapIdx (e : Nat) : Nat := 2 * laneOf e + (1 - chOf e)

/-- `CL.STEP(c, m, slot)` (`44_cluster.md` R260): each processed lane's pair in its own place, left and right
exchanged for the flipped copy, both weight smoothers ticked, an unprocessed lane forced to `+0.0`. -/
def clStep (k : Config) (site : Site) (bank : BankSlot) (cl : Cluster) (m : Mask) : Cluster × List F32 :=
  let stepped := cl.voices.mapIdx fun l uv =>
    if maskBit m l then uvProcess k (l :: 0 :: site) bank uv else (uv, F32.zero, F32.zero)
  let acc := stepped.flatMap fun p => [p.2.1, p.2.2]
  let wn := linTick1 (1 :: site) cl.wn
  let wf := linTick1 (2 :: site) cl.wf
  let out := acc.mapIdx fun e a =>
    if sel m e then
      fadd (0 :: e :: 3 :: site) (fmul (1 :: e :: 3 :: site) (linCur wn e) a)
        (fmul (2 :: e :: 3 :: site) (linCur wf e) (acc.getD (swapIdx e) F32.zero))
    else F32.zero
  ({ cl with voices := stepped.map (·.1), wn := wn, wf := wf }, out)

/-- The sample loop of PROCESS (`44_cluster.md` R262 step (4)): `todo` samples from sample s on, sample s into OUT
at `out + s·E`. -/
def sampleLoop (k : Config) (site : Site) (bank : BankSlot) (m : Mask) (out : Nat) :
    Nat → Nat → Cluster → Memory → Cluster × Memory
  | 0, _, cl, mem => (cl, mem)
  | todo + 1, s, cl, mem =>
    let p := clStep k (s :: site) bank cl m
    sampleLoop k site bank m out todo (s + 1) p.1 (mem.writeList (out + s * k.e) p.2)

/-- The per-block set-up of PROCESS (`44_cluster.md` R262 steps (1) to (3)) and the draws taken so far. -/
def blockSetup (k : Config) (site : Site) (cl : Cluster) (m : Mask) (n draws : Nat) : Cluster × Nat :=
  let t := recip n
  let cl1 := clTickN (0 :: site) cl n
  let p := mapAcc
    (fun l uv d => if maskBit m l then uvSetSmooth k (l :: 1 :: site) cl1 l t uv d else (uv, d)) 0 cl1.voices draws
  let cl2 := { cl1 with voices := p.1 }
  ({ cl2 with
      wn := linSet (3 :: site) cl2.wn (weightNormal k (2 :: site) cl2) t (fun _ => true)
      wf := linSet (4 :: site) cl2.wf (weightFlipped k (2 :: site) cl2) t (fun _ => true) }, p.2)

/-- `PROCESS c, mask, n, out` (`44_cluster.md` R262). -/
def execProcess (c : Field) (mask : Mask) (n out : Word) (s : State) : Host.Outcome State Fault Refusal :=
  checked s
    [ checkInit s, checkCluster s c,
      (decide (n.toNat = 0) || decide (s.maxBlock.toNat < n.toNat)
        || decide (s.cfg.outSize < out.toNat + n.toNat * s.cfg.e), .argRange, n),
      (!s.activeBank.valid, .bankSlot, 0) ]
    (let bank := s.bank s.activeBank.slot.toNat
     let cl := s.cluster c.toNat
     let m := cl.laneActive &&& mask
     let p := blockSetup s.cfg (0 :: [s.nanSeed]) cl m n.toNat s.draws
     let q := sampleLoop s.cfg (1 :: [s.nanSeed]) bank m out.toNat n.toNat 0 p.1 s.outMem
     respond { s.nextNan.setCluster c.toNat q.1 with outMem := q.2, draws := p.2 } 0)

end Sys2Proof.Machine
end

