-- ==== Sys2Proof/Machine/System.lean ====
section
/-! DEFINITION. The system commands INIT, STAT and NOP (`45_system.md`), and the state of a fresh cluster (`10_state.md` R51). -/

namespace Sys2Proof.Machine

/-- An inert oscillator (`10_state.md` R51). -/
def freshOsc (k : Config) : Osc where
  phase := List.replicate k.e 0
  pinc := List.replicate k.e ⟨F32.zero, F32.one⟩
  frame := List.replicate k.e ⟨F32.zero, F32.zero⟩
  omask := 0

/-- A voice never used: the packing of one copy (`10_state.md` R51). -/
def freshVoice (k : Config) : Voice where
  nUni := 1
  nOsc := 1
  tailMask := BitVec.ofNat 8 (2 ^ (k.v - 1))
  osc := List.replicate k.k (freshOsc k)

/-- A cluster right after INIT (`10_state.md` R51). -/
def freshCluster (k : Config) : Cluster where
  params := List.replicate 9 (List.replicate k.e ⟨F32.zero, F32.zero⟩)
  basePinc := List.replicate k.e F32.zero
  laneActive := 0
  wn := List.replicate k.e ⟨F32.zero, F32.zero⟩
  wf := List.replicate k.e ⟨F32.zero, F32.zero⟩
  voices := List.replicate k.v (freshVoice k)

/-- `NOP` (`45_system.md` R287). -/
def execNop (s : State) : Host.Outcome State Fault Refusal := respond s 0

/-- `INIT rate, maxblock, clusters` (`45_system.md` R281, R282). -/
def execInit (rate : F32) (maxBlock clusters : Word) (s : State) : Host.Outcome State Fault Refusal :=
  checked s
    [ (!isPosFinite rate, .argRange, 1),
      (decide (maxBlock.toNat = 0), .argRange, 2),
      (decide (clusters.toNat = 0) || decide (Config.maxClusters < clusters.toNat), .argRange, 3) ]
    (respond
      { s with
        sampleRate := rate
        maxBlock := maxBlock
        numClusters := clusters
        clusters := List.replicate clusters.toNat (freshCluster s.cfg)
        errstat := 0
        initialized := true } 0)

/-- The value of a status register other than 7 (`10_state.md` R36, `45_system.md` R285). -/
def statusWord (s : State) (reg slot : Nat) : Word :=
  match reg with
  | 0 => if s.initialized then 1 else 0
  | 1 => s.sampleRate
  | 2 => s.maxBlock
  | 3 => s.numClusters
  | 4 => activeBankWord s.activeBank
  | 5 => s.errstat.setWidth 32
  | 6 => geometryWord s.cfg
  | 8 =>
    if slot < s.cfg.numBankSlots ∧ (s.bank slot).valid then BitVec.ofNat 32 (s.bank slot).numFrames else 0
  | _ => 0

/-- `STAT reg, c, slot` (`45_system.md` R285): only register 7 makes checks. -/
def execStat (reg c slot : Field) (s : State) : Host.Outcome State Fault Refusal :=
  if reg.toNat = 7 then
    checked s [checkInit s, checkCluster s c] (respond s ((s.cluster c.toNat).laneActive.setWidth 32))
  else respond s (statusWord s reg.toNat slot.toNat)

end Sys2Proof.Machine
end

