-- ==== Sys2Proof/Syntax.lean ====
section
/-! DEFINITION. The twelve commands of the block, one constructor for each row of the opcode table (`30_encoding.md` R106). -/

namespace Sys2Proof

/-- A legal command with its operands as the header and operand words give them (`30_encoding.md` R103, R104). -/
inductive Instr where
  /-- `NOP` (`45_system.md` R287) -/
  | nop
  /-- `INIT rate, maxblock, clusters` (`45_system.md` R281) -/
  | init (rate : F32) (maxBlock clusters : Word)
  /-- `PROCESS c, mask, n, out` (`44_cluster.md` R262) -/
  | process (c : Field) (mask : Mask) (n out : Word)
  /-- `SETP c, mask, id, value` (`44_cluster.md` R232) -/
  | setp (c : Field) (mask : Mask) (id : Field) (value : F32)
  /-- `SETPS c, mask, id, value, samples` (`44_cluster.md` R234) -/
  | setps (c : Field) (mask : Mask) (id : Field) (value : F32) (samples : Word)
  /-- `VON c, lane, note` (`44_cluster.md` R245); a note is 7 bits (R103) -/
  | von (c lane : Field) (note : BitVec 7)
  /-- `VOFF c, lane` (`44_cluster.md` R249) -/
  | voff (c lane : Field)
  /-- `MOVE c1, l1, c2, l2` (`44_cluster.md` R253) -/
  | move (c1 l1 c2 l2 : Field)
  /-- `RESET c, mask` (`44_cluster.md` R257) -/
  | reset (c : Field) (mask : Mask)
  /-- `REPLACE slot` (`41_bank.md` R171) -/
  | replace (slot : Field)
  /-- `BLOAD slot, src, count` (`41_bank.md` R168) -/
  | bload (slot : Field) (src count : Word)
  /-- `STAT reg, c, slot` (`45_system.md` R285) -/
  | stat (reg c slot : Field)
deriving DecidableEq, Repr

end Sys2Proof
end

