-- ==== Sys2Proof/Machine/Dispatch.lean ====
section
/-! DEFINITION. One arm for each command of the opcode table. -/

namespace Sys2Proof.Machine

def exec (i : Instr) (s : State) : Host.Outcome State Fault Refusal :=
  match i with
  | .nop => Sys2Proof.Machine.execNop s
  | .init rate maxBlock clusters => Sys2Proof.Machine.execInit rate maxBlock clusters s
  | .process c mask n out => Sys2Proof.Machine.execProcess c mask n out s
  | .setp c mask id value => Sys2Proof.Machine.execSetp c mask id value s
  | .setps c mask id value samples => Sys2Proof.Machine.execSetps c mask id value samples s
  | .von c lane note => Sys2Proof.Machine.execVon c lane note s
  | .voff c lane => Sys2Proof.Machine.execVoff c lane s
  | .move c1 l1 c2 l2 => Sys2Proof.Machine.execMove c1 l1 c2 l2 s
  | .reset c mask => Sys2Proof.Machine.execReset c mask s
  | .replace slot => Sys2Proof.Machine.execReplace slot s
  | .bload slot src count => Sys2Proof.Machine.execBload slot src count s
  | .stat reg c slot => Sys2Proof.Machine.execStat reg c slot s

end Sys2Proof.Machine
end

