-- ==== Sys2Proof/WellFormed.lean ====
section
/-! DEFINITION. Which commands are legal under a lane width V: a lane mask has no bit at or above V (`30_encoding.md` R103, R110). -/

namespace Sys2Proof

/-- A lane mask with no bit set at or above position V (`30_encoding.md` R103). -/
def maskLegal (v : Nat) (m : Mask) : Bool := m.toNat < 2 ^ v

/-- The one operand condition that depends on V (`30_encoding.md` R110 (3)); every other operand takes every
value of its field. -/
def Instr.wellFormed (v : Nat) : Instr → Bool
  | .nop => true
  | .init _ _ _ => true
  | .process _ mask _ _ => maskLegal v mask
  | .setp _ mask _ _ => maskLegal v mask
  | .setps _ mask _ _ _ => maskLegal v mask
  | .von _ _ _ => true
  | .voff _ _ => true
  | .move _ _ _ _ => true
  | .reset _ mask => maskLegal v mask
  | .replace _ => true
  | .bload _ _ _ => true
  | .stat _ _ _ => true

end Sys2Proof
end

