-- ==== Sys2Proof/Decode.lean ====
section
/-! DEFINITION. The decoder of the command stream (`30_encoding.md` R100 to R112), total on every sequence of words, the encoder after it, and the pseudo-commands (R115). -/

namespace Sys2Proof

/-- `opc`, bits [31:24] of a header (`30_encoding.md` R101). -/
def Word.opc (w : Word) : Field := w.extractLsb' 24 8
/-- `c`, bits [23:16] of a header. -/
def Word.cField (w : Word) : Field := w.extractLsb' 16 8
/-- `lm`, bits [15:8] of a header. -/
def Word.lmField (w : Word) : Field := w.extractLsb' 8 8
/-- `aux`, bits [7:0] of a header. -/
def Word.auxField (w : Word) : Field := w.extractLsb' 0 8

/-- One row of the opcode map (`30_encoding.md` R106): a header selects the row when `w &&& mask = pattern`;
`words` is the command's length by its format (R102, R112). -/
structure OpcodeRow where
  mnemonic : String
  pattern : Word
  mask : Word
  words : Nat
deriving DecidableEq, Repr

/-- The opcode map (`30_encoding.md` R106), in ascending opcode order. -/
def opcodeRows : List OpcodeRow :=
  [ ⟨"NOP",     0x00000000, 0xFFFFFFFF, 1⟩,
    ⟨"INIT",    0x01000000, 0xFFFFFFFF, 4⟩,
    ⟨"PROCESS", 0x02000000, 0xFF0000FF, 3⟩,
    ⟨"SETP",    0x03000000, 0xFF000000, 2⟩,
    ⟨"SETPS",   0x04000000, 0xFF000000, 3⟩,
    ⟨"VON",     0x05000000, 0xFF000080, 1⟩,
    ⟨"VOFF",    0x06000000, 0xFF0000FF, 1⟩,
    ⟨"MOVE",    0x07000000, 0xFF0000FF, 2⟩,
    ⟨"RESET",   0x08000000, 0xFF0000FF, 1⟩,
    ⟨"REPLACE", 0x09000000, 0xFFFFFF00, 1⟩,
    ⟨"BLOAD",   0x0A000000, 0xFFFFFF00, 3⟩,
    ⟨"STAT",    0x0B000000, 0xFF000000, 1⟩ ]

/-- The row an opcode looks up (`30_encoding.md` R105); opcodes 0x0C to 0xFF select nothing. -/
def opcodeRow (opc : Field) : Option OpcodeRow := opcodeRows[opc.toNat]?

/-- What the decoder makes of the words on the command port (`30_encoding.md` R105). -/
inductive Decoded where
  /-- no header, or operand words that have not arrived: the block waits (`60_exceptions.md` R316) -/
  | wait
  /-- an illegal command of `len` words with header `w0` (R110) -/
  | illegal (w0 : Word) (len : Nat)
  /-- a legal command of `len` words -/
  | instr (i : Instr) (len : Nat)
deriving DecidableEq, Repr

/-- Reads the operands of a header of a known opcode and its operand words (`30_encoding.md` R103, R104);
`none` for a lane mask with a bit at or above V or a bad MOVE destination word (R110 (3), (4)). -/
def decodeOperands (v : Nat) (w0 w1 w2 w3 : Word) : Option Instr :=
  let c := w0.cField
  let lm := w0.lmField
  let aux := w0.auxField
  match w0.opc.toNat with
  | 0 => some .nop
  | 1 => some (.init w1 w2 w3)
  | 2 => if maskLegal v lm then some (.process c lm w1 w2) else none
  | 3 => if maskLegal v lm then some (.setp c lm aux w1) else none
  | 4 => if maskLegal v lm then some (.setps c lm aux w1 w2) else none
  | 5 => some (.von c lm (w0.extractLsb' 0 7))
  | 6 => some (.voff c lm)
  | 7 => if w1 &&& 0xFF0000FF#32 = 0#32 then some (.move c lm w1.cField w1.lmField) else none
  | 8 => if maskLegal v lm then some (.reset c lm) else none
  | 9 => some (.replace aux)
  | 10 => some (.bload aux w1 w2)
  | 11 => some (.stat aux c lm)
  | _ => none

/-- The decoding procedure (`30_encoding.md` R105): look the opcode up; an unknown one is a one-word illegal
command; otherwise wait for the operand words the format calls for, then check the must-be-zero bits (R110). -/
def decode (v : Nat) : List Word → Decoded
  | [] => .wait
  | w0 :: rest =>
    match opcodeRow w0.opc with
    | none => .illegal w0 1
    | some row =>
      if rest.length + 1 < row.words then .wait
      else if w0 &&& row.mask ≠ row.pattern then .illegal w0 row.words
      else
        match decodeOperands v w0 (rest.getD 0 0#32) (rest.getD 1 0#32) (rest.getD 2 0#32) with
        | some i => .instr i row.words
        | none => .illegal w0 row.words

/-- The number of bits of the longest command: four words (`30_encoding.md` R100). -/
def maxCommandWords : Nat := 4

/-- The words of an instruction given as one number: bit 0 is the least significant bit of the header, the
next word's bits count on from it; every bit at or above `nbits` is 0, up to the longest command. -/
def tableWords (nbits w : Nat) : List Word :=
  (List.range maxCommandWords).map (fun k => BitVec.ofNat 32 (w % 2 ^ nbits / 2 ^ (32 * k)))

/-- The instruction the decoder reads from those words, under the lane width of the build that `State.reset`
carries. -/
def decodeTableWord (nbits w : Nat) : Option Instr :=
  match decode Config.tiny.v (tableWords nbits w) with
  | .instr i _ => some i
  | _ => none

/-- Header assembly `(opc << 24) | (c << 16) | (lm << 8) | aux` (`30_encoding.md` R101, R114). -/
def header (opc c lm aux : Field) : Word := opc ++ c ++ lm ++ aux

/-- The words of an instruction (`30_encoding.md` R102, R104, R106). -/
def encode : Instr → List Word
  | .nop => [header 0x00 0 0 0]
  | .init rate maxBlock clusters => [header 0x01 0 0 0, rate, maxBlock, clusters]
  | .process c mask n out => [header 0x02 c mask 0, n, out]
  | .setp c mask id value => [header 0x03 c mask id, value]
  | .setps c mask id value samples => [header 0x04 c mask id, value, samples]
  | .von c lane note => [header 0x05 c lane (note.setWidth 8)]
  | .voff c lane => [header 0x06 c lane 0]
  | .move c1 l1 c2 l2 => [header 0x07 c1 l1 0, header 0 c2 l2 0]
  | .reset c mask => [header 0x08 c mask 0]
  | .replace slot => [header 0x09 0 0 slot]
  | .bload slot src count => [header 0x0A 0 0 slot, src, count]
  | .stat reg c slot => [header 0x0B c slot reg]

/-- `SETPA c, PARAM, value`: SETP on all lanes (`30_encoding.md` R115). -/
def pseudoSetpa (v : Nat) (c id : Field) (value : F32) : List Instr :=
  [.setp c (BitVec.ofNat 8 (2 ^ v - 1)) id value]

/-- `STEAL c1, l1, c2, l2`: MOVE then VOFF of the old lane (`30_encoding.md` R115). -/
def pseudoSteal (c1 l1 c2 l2 : Field) : List Instr := [.move c1 l1 c2 l2, .voff c1 l1]

/-- `ALLOFF c`: VOFF of every lane (`30_encoding.md` R115). -/
def pseudoAlloff (v : Nat) (c : Field) : List Instr :=
  (List.range v).map (fun l => .voff c (BitVec.ofNat 8 l))

/-- `SWAPBANK slot, src, count`: BLOAD then REPLACE (`30_encoding.md` R115). -/
def pseudoSwapbank (slot : Field) (src count : Word) : List Instr :=
  [.bload slot src count, .replace slot]

/-- The bytes of a word on a byte transport, first byte first (`20_memory.md` R76, `WORD_BYTE_ORDER`). -/
def wordBytes (order : ByteOrder) (w : Word) : List (BitVec 8) :=
  let le := [w.extractLsb' 0 8, w.extractLsb' 8 8, w.extractLsb' 16 8, w.extractLsb' 24 8]
  match order with
  | .littleEndian => le
  | .bigEndian => le.reverse

/-- The word that four transport bytes carry (`20_memory.md` R76). -/
def wordOfBytes (order : ByteOrder) (b0 b1 b2 b3 : BitVec 8) : Word :=
  match order with
  | .littleEndian => header b3 b2 b1 b0
  | .bigEndian => header b0 b1 b2 b3

/-- The words of a stream of transport bytes; fewer than four trailing bytes are no word yet. -/
def wordsOfBytes (order : ByteOrder) : List (BitVec 8) → List Word
  | b0 :: b1 :: b2 :: b3 :: rest => wordOfBytes order b0 b1 b2 b3 :: wordsOfBytes order rest
  | _ => []

end Sys2Proof
end

