-- ==== Sys2Proof/Machine/Port.lean ====
section
/-! DEFINITION. The ports: how the block takes the next command from the command port (`30_encoding.md` R105), and what the host may do between commands (`20_memory.md` R82, `60_exceptions.md` R310, `70_reset_and_hazards.md` R330). -/

namespace Sys2Proof.Machine

/-- What stands at the front of the command port, under the block's lane width (`30_encoding.md` R105). -/
def nextCommand (s : State) : Decoded := decode s.cfg.v s.cmdPort

/-- The state with the first words of the command port taken (`30_encoding.md` R105). -/
def State.take (s : State) (len : Nat) : State := { s with cmdPort := s.cmdPort.drop len }

/-- An illegal command: its words are taken and it ends with `raise E_ILLEGAL(W0)` (`30_encoding.md` R110). -/
def execIllegal (w0 : Word) (s : State) : Host.Outcome State Fault Refusal := raise s .illegal w0

/-- The host sends words on the command port (`30_encoding.md` R100). -/
def hostSend (s : State) (words : List Word) : State := { s with cmdPort := s.cmdPort ++ words }

/-- The host sends bytes over a byte transport, whole words (`20_memory.md` R76). -/
def hostSendBytes (s : State) (bytes : List (BitVec 8)) : State :=
  hostSend s (wordsOfBytes s.cfg.wordByteOrder bytes)

/-- The host takes the oldest response, two words (`30_encoding.md` R108). -/
def hostTakeResponse (s : State) : Option ((Word × Word) × State) :=
  match s.rspPort with
  | r0 :: r1 :: rest => some ((r0, r1), { s with rspPort := rest })
  | _ => none

/-- The host takes the oldest response over a byte transport: eight bytes (`20_memory.md` R76). -/
def hostTakeResponseBytes (s : State) : Option (List (BitVec 8) × State) :=
  (hostTakeResponse s).map fun q =>
    (wordBytes s.cfg.wordByteOrder q.1.1 ++ wordBytes s.cfg.wordByteOrder q.1.2, q.2)

/-- The host writes an element of IMPORT between commands (`20_memory.md` R82); `none` for an address outside
the space (R71). -/
def hostWriteImport (s : State) (a : Nat) (x : F32) : Option State :=
  if a < s.cfg.importSize then some { s with importMem := s.importMem.write a x } else none

/-- The host writes an element of IMPORT over a byte transport, in the order of its bytes there
(`20_memory.md` R76). -/
def hostWriteImportBytes (s : State) (a : Nat) (b0 b1 b2 b3 : BitVec 8) : Option State :=
  hostWriteImport s a (wordOfBytes s.cfg.wordByteOrder b0 b1 b2 b3)

/-- The host reads an element of OUT between commands (`20_memory.md` R82); one that no PROCESS has written is a
free value (U14); `none` for an address outside the space (R71). -/
def hostReadOut (s : State) (a : Nat) : Option F32 :=
  if a < s.cfg.outSize then some ((s.outMem.lookup a).getD (Config.powerOnOut a)) else none

/-- The host reads an element of OUT over a byte transport: four bytes (`20_memory.md` R76). -/
def hostReadOutBytes (s : State) (a : Nat) : Option (List (BitVec 8)) :=
  (hostReadOut s a).map (wordBytes s.cfg.wordByteOrder)

/-- Power-on reset between two commands, whatever the state (`70_reset_and_hazards.md` R330, U21): every piece
of the block's state is lost, the command port's words and the responses too. The build stays, and the free
values already drawn are not drawn again. -/
def hostPowerOn (s : State) : State :=
  { State.powerOn s.cfg with draws := s.draws, nanSeed := s.nanSeed }

end Sys2Proof.Machine
end

