-- ==== Sys2Proof/Machine/Step.lean ====
section
/-! DEFINITION. One step: the block takes one command from its command port and runs it (`20_memory.md` R80). -/

namespace Sys2Proof.Machine

/-- One step. With no whole command on the port the block waits and nothing changes (`60_exceptions.md` R316); an
illegal command is answered `E_ILLEGAL` (`30_encoding.md` R110); a legal one runs. A build outside
`00_scope.md` R7 is refused (U24). -/
def step (s : State) : Host.Outcome State Fault Refusal :=
  if s.cfg.legal then
    match nextCommand s with
    | .wait => .next s
    | .illegal w0 len => execIllegal w0 (s.take len)
    | .instr i len => exec i (s.take len)
  else .refused .illegalBuild

/-- `s` with an instruction given by its table bits in the first places of the command port, where the next step
takes its command from. -/
def State.withFetchWord (s : State) (nbits w : Nat) : State :=
  { s with cmdPort := tableWords nbits w ++ s.cmdPort.drop maxCommandWords }

end Sys2Proof.Machine
end

