-- ==== Sys2Proof/Safety.lean ====
section
/-! DEFINITION. What a sound state of the block is (`10_state.md` R32 to R49, `20_memory.md` R72 to R75), as checks that can be run, the terms in which statements compare two states, and the band-limiting property of `41_bank.md` R151 and R154. -/

namespace Sys2Proof.Machine

/-- An oscillator has E elements in every vector and a V-bit mask (`10_state.md` R44). -/
def Osc.ok (k : Config) (o : Osc) : Bool :=
  o.phase.length == k.e && o.pinc.length == k.e && o.frame.length == k.e && maskLegal k.v o.omask

/-- A voice (`10_state.md` R43): K oscillators; a unison count in 1..MAX_UNISON; `n_osc` and `tail_mask` as
`PACK` gives them (`43_unison_voice.md` R205); the oscillator masks those of `PACK` when the lane sounds and
zero when it is silent (`42_oscillator.md` R180). -/
def Voice.ok (k : Config) (active : Bool) (uv : Voice) : Bool :=
  uv.osc.length == k.k && decide (1 ≤ uv.nUni) && decide (uv.nUni ≤ k.maxUnison)
  && uv.nOsc == packGroups k uv.nUni && uv.tailMask == packMask k uv.nUni (packGroups k uv.nUni - 1)
  && (List.range k.k).all (fun g =>
        (uv.osc.getD g default).ok k
        && (uv.osc.getD g default).omask == (if active then packMask k uv.nUni g else 0))

/-- A cluster (`10_state.md` R38 to R43): nine parameters, E elements in every vector, V voices. -/
def Cluster.ok (k : Config) (cl : Cluster) : Bool :=
  cl.params.length == 9 && cl.params.all (fun c => c.length == k.e)
  && cl.basePinc.length == k.e && cl.wn.length == k.e && cl.wf.length == k.e
  && maskLegal k.v cl.laneActive && cl.voices.length == k.v
  && (List.range k.v).all (fun l => (cl.voice l).ok k (maskBit cl.laneActive l))

/-- A bank slot (`10_state.md` R45, `41_bank.md` R150): a valid one has 1 to MAX_FRAMES frames and all their
elements. -/
def BankSlot.ok (k : Config) (b : BankSlot) : Bool :=
  if b.valid then
    decide (1 ≤ b.numFrames) && decide (b.numFrames ≤ k.maxFrames)
    && b.data.length == b.numFrames * (k.numMipmaps * k.tableSize)
  else b.numFrames == 0 && b.data == []

/-- The configuration registers (`10_state.md` R32, R33): legal values once INIT has run, zero before. -/
def State.cfgOk (s : State) : Bool :=
  if s.initialized then
    isPosFinite s.sampleRate && decide (1 ≤ s.maxBlock.toNat)
    && decide (1 ≤ s.numClusters.toNat) && decide (s.numClusters.toNat ≤ Config.maxClusters)
  else s.numClusters == 0

/-- The active slot, when there is one, exists and is valid (`10_state.md` R34, `41_bank.md` R171). -/
def State.bankOk (s : State) : Bool :=
  s.banks.length == s.cfg.numBankSlots && s.banks.all (BankSlot.ok s.cfg)
  && (!s.activeBank.valid
      || (decide (s.activeBank.slot.toNat < s.cfg.numBankSlots) && (s.bank s.activeBank.slot.toNat).valid))

/-- The invariant of the block: what the rules say holds in every state the block can be in (`10_state.md` R30
to R49, `20_memory.md` R71). -/
def State.inv (s : State) : Bool :=
  s.cfg.legal && s.cfgOk
  && s.clusters.length == s.numClusters.toNat && s.clusters.all (Cluster.ok s.cfg)
  && s.bankOk && !s.errstat.getLsbD 0
  && Memory.wf s.cfg.importSize s.importMem && Memory.wf s.cfg.outSize s.outMem
  && s.rspPort.length % 2 == 0

/-- Two floats that a claim may not tell apart: the same pattern, or both NaN (`93_implementation_defined.md`
U10). -/
def sameF32 (a b : F32) : Prop := a = b ∨ (isNaN a = true ∧ isNaN b = true)

/-- Two linear cells that a claim may not tell apart. -/
def sameLinCell (a b : LinCell) : Prop := sameF32 a.cur b.cur ∧ sameF32 a.inc b.inc

/-- Two logarithmic cells that a claim may not tell apart. -/
def sameLogCell (a b : LogCell) : Prop := sameF32 a.cur b.cur ∧ sameF32 a.fac b.fac

/-- Two oscillators that a claim may not tell apart. -/
def sameOsc (a b : Osc) : Prop :=
  a.phase = b.phase ∧ a.omask = b.omask
  ∧ List.Forall₂ sameLogCell a.pinc b.pinc ∧ List.Forall₂ sameLinCell a.frame b.frame

/-- Two states of a lane that a claim may not tell apart: the same `LANESTATE` (`10_state.md` R48), NaN for NaN. -/
def sameLane (a b : LaneState) : Prop :=
  List.Forall₂ (fun p q => sameLinCell p.1 q.1 ∧ sameLinCell p.2 q.2) a.params b.params
  ∧ sameF32 a.base.1 b.base.1 ∧ sameF32 a.base.2 b.base.2
  ∧ sameLinCell a.wn.1 b.wn.1 ∧ sameLinCell a.wn.2 b.wn.2
  ∧ sameLinCell a.wf.1 b.wf.1 ∧ sameLinCell a.wf.2 b.wf.2
  ∧ a.active = b.active
  ∧ a.voice.nUni = b.voice.nUni ∧ a.voice.nOsc = b.voice.nOsc ∧ a.voice.tailMask = b.voice.tailMask
  ∧ List.Forall₂ sameOsc a.voice.osc b.voice.osc

/-- The length of a command by its opcode alone (`30_encoding.md` R112). -/
def commandLength (opc : Nat) : Nat :=
  if opc = 1 then 4
  else if opc = 2 ∨ opc = 4 ∨ opc = 10 then 3
  else if opc = 3 ∨ opc = 7 then 2
  else 1

/-- The state after a command that fails with status `code` and info word `info`, and nothing else
(`60_exceptions.md` R305). -/
def failed (s : State) (code : Nat) (info : Word) : State :=
  { s with
    errstat := s.errstat ||| BitVec.ofNat 8 (2 ^ code)
    rspPort := s.rspPort ++ [BitVec.ofNat 32 code <<< 24, info] }

/-- The state after a command that writes nothing and answers `OK` with a payload. -/
def answeredOk (s : State) (payload : Word) : State := { s with rspPort := s.rspPort ++ [0, payload] }

/-- A command on cluster c passes its first two checks (`60_exceptions.md` R302). -/
def clusterReady (s : State) (c : Field) : Prop := s.initialized = true ∧ c.toNat < s.numClusters.toNat

/-- Every cluster but cluster c is as before, and the pool has its size. -/
def onlyCluster (s t : State) (c : Nat) : Prop :=
  t.clusters.length = s.clusters.length ∧ ∀ c', c' ≠ c → t.clusters[c']? = s.clusters[c']?

/-- The cell `P[c][p]` at element e (`10_state.md` R38), `none` where there is none. -/
def paramCell (s : State) (c p e : Nat) : Option LinCell :=
  (s.clusters[c]?).bind fun cl => (cl.params[p]?).bind fun x => x[e]?

/-- What of a cluster is not its parameter file. -/
def besideParams (s : State) (c : Nat) : Option Cluster := (s.clusters[c]?).map fun cl => { cl with params := [] }

/-- The elements of a voice that are on: bit `lane(e)` of the group's mask (`43_unison_voice.md` R205, R209). -/
def copyOn (k : Config) (n g e : Nat) : Bool := sel (packMask k n g) e

/-- Element e of group g turns on when the voice is configured for n copies (`42_oscillator.md` R190). -/
def turnsOn (k : Config) (n : Nat) (uv : Voice) (g e : Nat) : Bool :=
  copyOn k n g e && !sel (uv.osc.getD g default).omask e

/-- How many elements turn on before element e of group g, in ascending order of group and element
(`43_unison_voice.md` R209): each of them takes one draw. -/
def turnsBefore (k : Config) (n : Nat) (uv : Voice) (g e : Nat) : Nat :=
  ((List.range g).map fun g' =>
      ((List.range (uv.osc.getD g' default).phase.length).filter (turnsOn k n uv g')).length).sum
    + ((List.range e).filter (turnsOn k n uv g)).length

/-- How many elements of lane ℓ turn on when it is configured for its `UNISON` value. -/
def laneTurns (k : Config) (cl : Cluster) (l : Nat) : Nat :=
  turnsBefore k (unisonCount k (cl.cur 8 (2 * l))) (cl.voice l) k.k 0

/-- The first draw of lane ℓ in a PROCESS of the lanes m of a cluster whose parameters have ticked: draws are taken in
ascending lane order (`44_cluster.md` R262). -/
def laneDraw (k : Config) (ticked : Cluster) (m : Mask) (draws l : Nat) : Nat :=
  draws + ((List.range l).map fun l' => if maskBit m l' then laneTurns k ticked l' else 0).sum

/-- Lane ℓ of one PROCESS and lane ℓ' of another take the same draws, or their draws do not count because `RANDOM` is
0 there (`44_cluster.md` R254 (b)). -/
def sameDraws (k : Config) (ticked ticked' : Cluster) (m m' : Mask) (draws draws' l l' : Nat) : Prop :=
  maskBit m l = true → (ticked.cur 4 (2 * l) = 0 ∧ ticked.cur 4 (2 * l + 1) = 0)
    ∨ ∀ j, j < laneTurns k ticked l → Config.draw32 (laneDraw k ticked m draws l + j)
        = Config.draw32 (laneDraw k ticked' m' draws' l' + j)

/-- x is a sum of the values of a tree's leaves by one `fadd` for each node (`43_unison_voice.md` R213). -/
def TreeSum (value : Nat → F32) : SumTree → F32 → Prop
  | .leaf j, x => x = value j
  | .node a b, x => ∃ y z site, TreeSum value a y ∧ TreeSum value b z ∧ x = fadd site y z

/-- `r` is the float nearest to the exact number `num / den` units of 2^−149, ties to the even fraction; an
infinity of its sign from the overflow boundary `(2^25 − 1) · 2^252` units on (`00_scope.md` R12). -/
def NearestEven (num : Int) (den : Nat) (r : F32) : Prop :=
  if num.natAbs < (2 ^ 25 - 1) * 2 ^ 252 * den then
    isFinite r = true ∧ ∀ y : F32, isFinite y = true →
      (fval r * den - num).natAbs ≤ (fval y * den - num).natAbs
      ∧ ((fval r * den - num).natAbs = (fval y * den - num).natAbs → fval y ≠ fval r → ffrac r % 2 = 0)
  else isInf r = true ∧ fsign r = decide (num < 0)

/-- The real number a finite float stands for.
DESIGN CHOICE (assumption 11): the spec gives an infinity or NaN no real value; here such a pattern counts as the real
that its fields would spell, of magnitude 2^128 or more. -/
noncomputable def realOf (x : F32) : ℝ := (fval x : ℝ) / 2 ^ 149

/-- Bin b of the T-point transform of a sequence (`41_bank.md` R153 step 2). -/
noncomputable def dftBin (t : Nat) (x : Nat → ℝ) (b : Nat) : ℂ :=
  ∑ i ∈ Finset.range t, (x i : ℂ) * Complex.exp (-(2 * Real.pi * Complex.I * i * b / t))

/-- `y_m[i]` of a frame before it is rounded (`41_bank.md` R153 step 3): the inverse transform of the bins up to
`PARTIALS(m)`. -/
noncomputable def bandSample (k : Config) (frame : List F32) (m i : Nat) : ℝ :=
  let t := k.tableSize
  let y := fun b => if b ≤ partials m then dftBin t (fun q => realOf (frame.getD q 0)) b else 0
  ((y 0).re
    + 2 * ∑ b ∈ Finset.Ico 1 (t / 2), (y b * Complex.exp (2 * Real.pi * Complex.I * i * b / t)).re
    + (y (t / 2)).re * (-1) ^ i) / t

/-- r is the float nearest to a real number x, but for a slack of 2^−249, far below the least float; an infinity of x's
sign from the overflow boundary on and only there, but for the same slack. -/
def NearestUpToSlack (x : ℝ) (r : F32) : Prop :=
  let limit : ℝ := (2 ^ 25 - 1) * 2 ^ 103
  (isFinite r = true → ∀ z : F32, isFinite z = true → |realOf r - x| ≤ |realOf z - x| + 1 / 2 ^ 249)
  ∧ (isFinite r = false → isInf r = true ∧ limit ≤ |x| + 1 / 2 ^ 249 ∧ (fsign r = true ↔ x < 0))
  ∧ (|x| + 1 / 2 ^ 249 < limit → isFinite r = true)
  ∧ (limit + 1 / 2 ^ 249 ≤ |x| → isInf r = true)

/-- The property of `BUILD_MIPMAPS` at level m of a frame, with `EPS_BAND` = `eps` and the bin `peak` of largest
magnitude (`41_bank.md` R151, R154): above `PARTIALS(m)` the stored variant has at most `eps` times the frame's
largest bin, and up to it differs from the frame's bin by at most that.
DESIGN CHOICE (assumption 11): of a stored sample that is not finite (an overflow, or an open transform) the spec gives no
value; it counts as `realOf` its pattern. -/
def bandLimitedAt (k : Config) (eps : ℝ) (frame : List F32) (m peak : Nat) : Prop :=
  let x := dftBin k.tableSize (fun i => realOf (frame.getD i 0))
  let y := dftBin k.tableSize (fun i => realOf (buildMipmap k frame m i))
  ∀ b ≤ k.tableSize / 2,
    (partials m < b → ‖y b‖ ≤ eps * ‖x peak‖) ∧ (b ≤ partials m → ‖y b - x b‖ ≤ eps * ‖x peak‖)

/-- The property of `BUILD_MIPMAPS` that a claim may assume (`41_bank.md` R154): at every level of every finite
frame. No statement assumes it. -/
def BuildBandLimited (k : Config) (eps : ℝ) : Prop :=
  ∀ (frame : List F32) (m peak : Nat), frame.length = k.tableSize → frame.all isFinite = true →
    m ≤ k.numOctaves → peak ≤ k.tableSize / 2 →
    (∀ b ≤ k.tableSize / 2,
      ‖dftBin k.tableSize (fun i => realOf (frame.getD i 0)) b‖
        ≤ ‖dftBin k.tableSize (fun i => realOf (frame.getD i 0)) peak‖) →
    bandLimitedAt k eps frame m peak

end Sys2Proof.Machine
end

