-- ==== Sys2Proof/Certificates/Slice0/Obligations.lean ====
section
/-! DEFINITION. The statements for the provers, in the order of the spec's files: encoding, step and errors, reset and invariant, system commands, bank, floats and smoothers, oscillator, unison voice, cluster. A float result that may be NaN is named with some site of its free payload (`00_scope.md` R12). -/

section Statements
open Sys2Proof Sys2Proof.Machine

/-! ### The encoding -/

/-- Every legal command decodes from its words, whatever follows them (`30_encoding.md` R100 to R106). -/
def Obligations.DecodeReadsEveryEncoding : Prop :=
  ∀ (v : Nat) (i : Instr) (rest : List Word), i.wellFormed v = true →
    decode v (encode i ++ rest) = .instr i (encode i).length

/-- No two streams decode to one command: a decoded command is legal and the words taken are its encoding
(`30_encoding.md` R105). -/
def Obligations.DecodedWordsAreTheEncoding : Prop :=
  ∀ (v : Nat) (ws : List Word) (i : Instr) (len : Nat), decode v ws = .instr i len →
    i.wellFormed v = true ∧ len = (encode i).length ∧ ws.take len = encode i

/-- `30_encoding.md` R112: the length, and the wait for operand words, follow from the opcode alone. -/
def Obligations.LengthFollowsFromOpcode : Prop :=
  ∀ (v : Nat) (w0 : Word) (rest : List Word),
    (decode v (w0 :: rest) = .wait ↔ rest.length + 1 < commandLength w0.opc.toNat)
    ∧ (∀ w len, decode v (w0 :: rest) = .illegal w len → w = w0 ∧ len = commandLength w0.opc.toNat)
    ∧ (∀ i len, decode v (w0 :: rest) = .instr i len → len = commandLength w0.opc.toNat)

/-- `30_encoding.md` R110: which command words are illegal, case by case, once the words have arrived. -/
def Obligations.IllegalEncodings : Prop :=
  ∀ (v : Nat) (w0 w1 : Word) (rest : List Word),
    commandLength w0.opc.toNat ≤ rest.length + 2 →
    ((∃ len, decode v (w0 :: w1 :: rest) = .illegal w0 len) ↔
      -- (1) an unknown opcode
      12 ≤ w0.opc.toNat
      -- (2) a must-be-zero bit of the opcode's row
      ∨ ((w0.opc = 0 ∨ w0.opc = 1) ∧ ¬ (w0.cField = 0 ∧ w0.lmField = 0 ∧ w0.auxField = 0))
      ∨ ((w0.opc = 2 ∨ w0.opc = 6 ∨ w0.opc = 7 ∨ w0.opc = 8) ∧ w0.auxField ≠ 0)
      ∨ (w0.opc = 5 ∧ w0.auxField.getLsbD 7 = true)
      ∨ ((w0.opc = 9 ∨ w0.opc = 10) ∧ ¬ (w0.cField = 0 ∧ w0.lmField = 0))
      -- (3) a lane-mask bit at or above V
      ∨ ((w0.opc = 2 ∨ w0.opc = 3 ∨ w0.opc = 4 ∨ w0.opc = 8) ∧ ∃ j, v ≤ j ∧ w0.lmField.getLsbD j = true)
      -- (4) a bad destination word of MOVE
      ∨ (w0.opc = 7 ∧ ¬ (w1.opc = 0 ∧ w1.auxField = 0)))

/-- Words the spec writes out decode to the commands it says (`30_encoding.md` R114, the examples of
`44_cluster.md` and `45_system.md`). -/
def Obligations.SpecWordsDecode : Prop :=
  decode 2 [0x00000000] = .instr .nop 1
  ∧ decode 2 [0x01000000, 0x473B8000, 0x00000200, 0x00000008] = .instr (.init 0x473B8000 512 8) 4
  ∧ decode 2 [0x02000100, 0x00000008, 0x00000000] = .instr (.process 0 1 8 0) 3
  ∧ decode 2 [0x03000107, 0x3F000000] = .instr (.setp 0 1 7 0x3F000000) 2
  ∧ decode 2 [0x04000107, 0x3F800000, 0x00000004] = .instr (.setps 0 1 7 0x3F800000 4) 3
  ∧ decode 2 [0x05000045] = .instr (.von 0 0 69) 1
  ∧ decode 2 [0x06000000] = .instr (.voff 0 0) 1
  ∧ decode 2 [0x07000000, 0x00010100] = .instr (.move 0 0 1 1) 2
  ∧ decode 2 [0x08000100] = .instr (.reset 0 1) 1
  ∧ decode 2 [0x0B000006] = .instr (.stat 6 0 0) 1

/-! ### The step, responses and errors -/

/-- A step on a whole legal command takes its words and runs the decoded instruction (`30_encoding.md` R105). -/
def Obligations.StepRunsDecodedCommand : Prop :=
  ∀ (s : State) (i : Instr) (len : Nat), s.cfg.legal = true → decode s.cfg.v s.cmdPort = .instr i len →
    step s = exec i { s with cmdPort := s.cmdPort.drop len }

/-- A step on an illegal command takes its words, sets `ERRSTAT` bit 1 and answers `E_ILLEGAL` with the header
(`30_encoding.md` R110, `60_exceptions.md` R305). -/
def Obligations.StepAnswersIllegalCommand : Prop :=
  ∀ (s : State) (w0 : Word) (len : Nat), s.cfg.legal = true → decode s.cfg.v s.cmdPort = .illegal w0 len →
    step s = .next { s with
      cmdPort := s.cmdPort.drop len
      errstat := s.errstat ||| 2#8
      rspPort := s.rspPort ++ [0x01000000#32, w0] }

/-- With operand words missing (`60_exceptions.md` R316), and with no header (R317; log entry 2's reading), the block
waits: the step answers the same state. -/
def Obligations.StepWaitsForOperandWords : Prop :=
  ∀ s : State, s.cfg.legal = true →
    (s.cmdPort = [] ∨ ∃ w0 rest, s.cmdPort = w0 :: rest ∧ rest.length + 1 < commandLength w0.opc.toNat) →
    step s = .next s

/-- A build that is not legal is refused, and nothing else is (`93_implementation_defined.md` U24, `60_exceptions.md`
R306, R319). Legal are the constraints of `00_scope.md` R7 and, by the model's own choice (log entries 1 and 7), that a
`FOLD` order adds every lane exactly once. -/
def Obligations.OnlyAnIllegalBuildStopsTheBlock : Prop :=
  ∀ s : State, (s.cfg.legal = false → step s = .refused .illegalBuild)
    ∧ (s.cfg.legal = true → ∃ t, step s = .next t)

/-- `30_encoding.md` R108: every command emits exactly one response of two words, the first a status code 0 to 7 in
bits [31:24] and zeros, after the earlier responses. -/
def Obligations.EveryCommandEmitsOneResponse : Prop :=
  ∀ (i : Instr) (s : State), ∃ t status payload, exec i s = .next t ∧ status ≤ 7 ∧
    t.rspPort = s.rspPort ++ [BitVec.ofNat 32 (status * 2 ^ 24), payload]

/-- `60_exceptions.md` R305: a command that answers an error changes nothing but its `ERRSTAT` bit. -/
def Obligations.ErrorsArePrecise : Prop :=
  ∀ (i : Instr) (s t : State) (status : Nat) (info : Word), exec i s = .next t → 1 ≤ status → status ≤ 7 →
    t.rspPort = s.rspPort ++ [BitVec.ofNat 32 (status * 2 ^ 24), info] → t = failed s status info

/-- Who writes what (`10_state.md` R33, R34, R45; `20_memory.md` R71): the configuration registers only INIT,
`ACTIVE_BANK` only REPLACE, the slots only BLOAD, OUT only PROCESS, IMPORT no command, the cluster pool none of NOP,
REPLACE, BLOAD and STAT, and a bit of `ERRSTAT` is cleared only by INIT and set only by an error (R35). -/
def Obligations.EachPieceOfStateHasItsWriters : Prop :=
  ∀ (i : Instr) (s t : State), exec i s = .next t →
    t.cfg = s.cfg ∧ t.importMem = s.importMem ∧ t.cmdPort = s.cmdPort
    ∧ ((∀ rate maxBlock clusters, i ≠ .init rate maxBlock clusters) →
        t.initialized = s.initialized ∧ t.sampleRate = s.sampleRate ∧ t.maxBlock = s.maxBlock
        ∧ t.numClusters = s.numClusters
        ∧ (t.errstat = s.errstat ∨ ∃ status info, 1 ≤ status ∧ status ≤ 7 ∧ t = failed s status info))
    ∧ ((∀ slot, i ≠ .replace slot) → t.activeBank = s.activeBank)
    ∧ ((∀ slot src count, i ≠ .bload slot src count) → t.banks = s.banks)
    ∧ ((∀ c mask n out, i ≠ .process c mask n out) → t.outMem = s.outMem)
    ∧ (i = .nop ∨ (∃ slot, i = .replace slot) ∨ (∃ slot src count, i = .bload slot src count)
        ∨ (∃ reg c slot, i = .stat reg c slot) → t.clusters = s.clusters)

/-- The active slot is read-only and a valid slot never becomes invalid (`20_memory.md` R84, `41_bank.md`
R157, R169). -/
def Obligations.PublishedBankIsImmutable : Prop :=
  ∀ s t : State, step s = .next t →
    (s.activeBank.valid = true → t.bank s.activeBank.slot.toNat = s.bank s.activeBank.slot.toNat)
    ∧ ∀ n, (s.bank n).valid = true → (t.bank n).valid = true

/-! ### Reset and the invariant -/

/-- `10_state.md` R50, of a reset of any state of any build and of the state the row starts from. -/
def Obligations.PowerOnValues : Prop :=
  (∀ s : State,
    let t := hostPowerOn s
    t.initialized = false ∧ t.sampleRate = 0 ∧ t.maxBlock = 0 ∧ t.numClusters = 0 ∧ t.clusters = []
    ∧ t.activeBank.valid = false ∧ t.activeBank.slot = 0 ∧ t.errstat = 0
    ∧ t.banks.length = s.cfg.numBankSlots ∧ (∀ b ∈ t.banks, b.valid = false ∧ b.numFrames = 0)
    ∧ ∀ a, t.importMem.lookup a = none ∧ t.outMem.lookup a = none)
  ∧ hostPowerOn State.reset = State.reset

/-- The state after reset meets the invariant. -/
def Obligations.ResetMeetsInvariant : Prop := State.reset.inv = true

/-- Every step keeps the invariant: the build stays legal, the configuration registers hold legal values, the pool
has its size and shape, every voice in use has 1 to MAX_UNISON copies packed as `PACK` says, a silent lane has no copy
on, slots hold whole banks, the active slot is valid, `ERRSTAT` bit 0 is 0, the memories keep their canonical form
inside their spaces and responses stay in pairs (`10_state.md` R30 to R49). -/
def Obligations.StepKeepsInvariant : Prop :=
  ∀ s t : State, s.inv = true → step s = .next t → t.inv = true

/-- What the host may do between commands keeps the invariant (`20_memory.md` R82, `60_exceptions.md` R310,
`70_reset_and_hazards.md` R330), a write to IMPORT is what a later read gives, and a byte transport carries the same words
in the build's byte order (`20_memory.md` R76). -/
def Obligations.HostActionsKeepInvariant : Prop :=
  ∀ s : State, s.inv = true →
    let order := s.cfg.wordByteOrder
    (∀ ws, (hostSend s ws).inv = true ∧ hostSendBytes s (ws.flatMap (wordBytes order)) = hostSend s ws)
    ∧ (∀ r t, hostTakeResponse s = some (r, t) → t.inv = true ∧ s.rspPort = r.1 :: r.2 :: t.rspPort
        ∧ ∃ bs, hostTakeResponseBytes s = some (bs, t) ∧ wordsOfBytes order bs = [r.1, r.2])
    ∧ (∀ a b0 b1 b2 b3, hostWriteImportBytes s a b0 b1 b2 b3
        = hostWriteImport s a (match order with
          | .littleEndian => b3 ++ b2 ++ b1 ++ b0
          | .bigEndian => b0 ++ b1 ++ b2 ++ b3))
    ∧ (∀ a x, hostReadOut s a = some x →
        ∃ bs, hostReadOutBytes s a = some bs ∧ bs.length = 4 ∧ wordsOfBytes order bs = [x])
    ∧ (∀ a x t, hostWriteImport s a x = some t →
        t.inv = true ∧ ∀ b, importRead t.importMem b = if b = a then x else importRead s.importMem b)
    ∧ (hostPowerOn s).inv = true

/-! ### System commands -/

/-- `45_system.md` R287: the zero word is NOP, which answers `(OK, 0)`, needs no INIT and writes nothing; a header of
opcode 0 with any other bit set is illegal. -/
def Obligations.NopOnlyAnswers : Prop :=
  (∀ s : State, exec .nop s = .next (answeredOk s 0))
  ∧ ∀ (v : Nat) (w0 : Word) (rest : List Word), w0.opc = 0 →
      decode v (w0 :: rest) = if w0 = 0 then .instr .nop 1 else .illegal w0 1

/-- A successful INIT writes the configuration registers, clears `ERRSTAT` and creates the pool with the values of
`10_state.md` R51; the banks and both memories stay (`45_system.md` R281, R282). -/
def Obligations.InitCreatesTheFreshPool : Prop :=
  ∀ (rate : F32) (maxBlock clusters : Word) (s : State), s.cfg.legal = true →
    flt F32.zero rate = true → flt rate F32.inf = true → maxBlock ≠ 0 → clusters ≠ 0 → clusters.toNat ≤ 256 →
    ∃ t, exec (.init rate maxBlock clusters) s = .next t
      ∧ t = { s with
          sampleRate := rate, maxBlock := maxBlock, numClusters := clusters, clusters := t.clusters
          errstat := 0, initialized := true, rspPort := s.rspPort ++ [0, 0] }
      ∧ t.clusters.length = clusters.toNat
      ∧ ∀ cl ∈ t.clusters,
          cl.laneActive = 0 ∧ cl.basePinc = List.replicate s.cfg.e 0
          ∧ cl.params = List.replicate 9 (List.replicate s.cfg.e ⟨0, 0⟩)
          ∧ cl.wn = List.replicate s.cfg.e ⟨0, 0⟩ ∧ cl.wf = List.replicate s.cfg.e ⟨0, 0⟩
          ∧ cl.voices.length = s.cfg.v
          ∧ ∀ uv ∈ cl.voices, uv.nUni = 1 ∧ uv.nOsc = 1 ∧ uv.osc.length = s.cfg.k
              ∧ (∀ j, maskBit uv.tailMask j = decide (j + 1 = s.cfg.v))
              ∧ ∀ o ∈ uv.osc, o.phase = List.replicate s.cfg.e 0 ∧ o.omask = 0
                  ∧ o.pinc = List.replicate s.cfg.e ⟨0, 0x3F800000⟩ ∧ o.frame = List.replicate s.cfg.e ⟨0, 0⟩

/-- INIT tests its operand words in order and names the first bad one (`45_system.md` R281). -/
def Obligations.InitNamesTheBadOperand : Prop :=
  ∀ (rate : F32) (maxBlock clusters : Word) (s : State),
    (¬ (flt F32.zero rate = true ∧ flt rate F32.inf = true) →
      exec (.init rate maxBlock clusters) s = .next (failed s 7 1))
    ∧ (flt F32.zero rate = true → flt rate F32.inf = true → maxBlock = 0 →
      exec (.init rate maxBlock clusters) s = .next (failed s 7 2))
    ∧ (flt F32.zero rate = true → flt rate F32.inf = true → maxBlock ≠ 0 →
        (clusters = 0 ∨ 256 < clusters.toNat) →
      exec (.init rate maxBlock clusters) s = .next (failed s 7 3))

/-- `45_system.md` R285, `10_state.md` R36: what each status register answers, with its fields, and the two errors
of register 7. -/
def Obligations.StatReadsStatusRegisters : Prop :=
  ∀ (reg c slot : Field) (s : State),
    (reg.toNat ≠ 7 → ∃ w, exec (.stat reg c slot) s = .next (answeredOk s w)
      ∧ (reg = 0 → w = if s.initialized then 1 else 0)
      ∧ (reg = 1 → w = s.sampleRate) ∧ (reg = 2 → w = s.maxBlock) ∧ (reg = 3 → w = s.numClusters)
      ∧ (reg = 4 → w.toNat = (if s.activeBank.valid then 256 else 0) + s.activeBank.slot.toNat)
      ∧ (reg = 5 → w.toNat = s.errstat.toNat)
      ∧ (reg = 6 → s.cfg.legal = true →
          w.auxField.toNat = s.cfg.numOctaves ∧ w.lmField.toNat = s.cfg.v
          ∧ w.cField.toNat = min s.cfg.maxUnison 255 ∧ w.opc.toNat = min s.cfg.k 255)
      ∧ (reg = 8 → w = if slot.toNat < s.cfg.numBankSlots ∧ (s.bank slot.toNat).valid = true
          then BitVec.ofNat 32 (s.bank slot.toNat).numFrames else 0)
      ∧ (9 ≤ reg.toNat → w = 0))
    ∧ (reg.toNat = 7 →
      (s.initialized = false → exec (.stat reg c slot) s = .next (failed s 2 0))
      ∧ (s.initialized = true → s.numClusters.toNat ≤ c.toNat →
          exec (.stat reg c slot) s = .next (failed s 3 (c.setWidth 32)))
      ∧ (clusterReady s c →
          exec (.stat reg c slot) s = .next (answeredOk s ((s.cluster c.toNat).laneActive.setWidth 32))))

/-! ### The bank -/

/-- `41_bank.md` R171: REPLACE of a valid slot is one register write that answers the old status register 4; of any
other slot it is `E_BANK_SLOT`. -/
def Obligations.ReplaceSwapsTheActiveSlot : Prop :=
  ∀ (slot : Field) (s : State),
    (slot.toNat < s.cfg.numBankSlots → (s.bank slot.toNat).valid = true →
      ∃ old : Word, old.toNat = (if s.activeBank.valid then 256 else 0) + s.activeBank.slot.toNat
        ∧ exec (.replace slot) s = .next { answeredOk s old with activeBank := ⟨true, slot⟩ })
    ∧ (s.cfg.numBankSlots ≤ slot.toNat ∨ (s.bank slot.toNat).valid = false →
      exec (.replace slot) s = .next (failed s 6 (slot.setWidth 32)))

/-- A successful BLOAD builds every level of every frame into the slot and answers the frame count; no other slot and
nothing else changes (`41_bank.md` R168, `20_memory.md` R72, R74). -/
def Obligations.BloadBuildsTheSlot : Prop :=
  ∀ (slot : Field) (src count : Word) (s : State), s.inv = true →
    slot.toNat < s.cfg.numBankSlots → ¬ (s.activeBank.valid = true ∧ s.activeBank.slot = slot) →
    src.toNat + count.toNat ≤ s.cfg.importSize → count ≠ 0 → count.toNat % s.cfg.tableSize = 0 →
    count.toNat / s.cfg.tableSize ≤ s.cfg.maxFrames →
    ∃ t, exec (.bload slot src count) s = .next t
      ∧ t = { answeredOk s (BitVec.ofNat 32 (count.toNat / s.cfg.tableSize)) with banks := t.banks }
      ∧ t.banks.length = s.banks.length ∧ (∀ j, j ≠ slot.toNat → t.banks[j]? = s.banks[j]?)
      ∧ (t.bank slot.toNat).valid = true ∧ (t.bank slot.toNat).numFrames = count.toNat / s.cfg.tableSize
      ∧ (t.bank slot.toNat).data.length
          = count.toNat / s.cfg.tableSize * (s.cfg.numMipmaps * s.cfg.tableSize)
      ∧ ∀ f m i, f < count.toNat / s.cfg.tableSize → m ≤ s.cfg.numOctaves → i < s.cfg.tableSize →
          (t.bank slot.toNat).data[(f * s.cfg.numMipmaps + m) * s.cfg.tableSize + i]?
            = some (buildMipmap s.cfg ((List.range s.cfg.tableSize).map fun q =>
                importRead s.importMem (src.toNat + f * s.cfg.tableSize + q)) m i)

/-- `41_bank.md` R155: the full-bandwidth level of every loaded frame is the imported frame element for element, bit
for bit, whatever the transform. -/
def Obligations.FullLevelIsTheImportedFrame : Prop :=
  ∀ (slot : Field) (src count : Word) (s t : State), s.inv = true →
    exec (.bload slot src count) s = .next t → (∃ w, t.rspPort = s.rspPort ++ [0, w]) →
    ∀ f i, f < count.toNat / s.cfg.tableSize → i < s.cfg.tableSize →
      (t.bank slot.toNat).read (bankAddr s.cfg f s.cfg.numOctaves i)
        = importRead s.importMem (src.toNat + f * s.cfg.tableSize + i)

/-- BLOAD makes its checks in the order `41_bank.md` R168 writes them and a failed load leaves every slot as it
was. -/
def Obligations.BloadErrorsInOrder : Prop :=
  ∀ (slot : Field) (src count : Word) (s : State),
    let onActive := s.activeBank.valid = true ∧ s.activeBank.slot = slot
    (s.cfg.numBankSlots ≤ slot.toNat ∨ onActive →
      exec (.bload slot src count) s = .next (failed s 6 (slot.setWidth 32)))
    ∧ (slot.toNat < s.cfg.numBankSlots → ¬ onActive → s.cfg.importSize < src.toNat + count.toNat →
      exec (.bload slot src count) s = .next (failed s 7 count))
    ∧ (slot.toNat < s.cfg.numBankSlots → ¬ onActive → src.toNat + count.toNat ≤ s.cfg.importSize →
        (count = 0 ∨ count.toNat % s.cfg.tableSize ≠ 0 ∨ s.cfg.maxFrames < count.toNat / s.cfg.tableSize) →
      exec (.bload slot src count) s = .next (failed s 5 count))

/-- The default build's levels below the full one (`41_bank.md` R152, R153): every sample is the float nearest to the
inverse transform of the bins up to `PARTIALS(m)`, but for a slack far below the least float (that the slack moves no
rounding is log entry 10's), and level 0 is the mean of the frame, correctly rounded. -/
def Obligations.LevelsBelowFullKeepTheirBins : Prop :=
  ∀ (k : Config) (frame : List F32) (m i : Nat), k.legal = true → k.buildMipmaps = .specDefault →
    frame.length = k.tableSize → frame.all isFinite = true → m < k.numOctaves → i < k.tableSize →
    NearestUpToSlack (bandSample k frame m i) (buildMipmap k frame m i)
    ∧ (m = 0 → NearestEven (frame.map fval).sum k.tableSize (buildMipmap k frame m i))

/-- `LEVEL(delta)` (`41_bank.md` R158), its corners, and that it never grows with the increment (R163). -/
def Obligations.LevelFallsWithTheIncrement : Prop :=
  ∀ (k : Config) (d d' : Word), k.legal = true →
    level k d ≤ k.numOctaves
    ∧ (d = 0 → level k d = k.numOctaves) ∧ (2 ^ 31 ≤ d.toNat → level k d = 0)
    ∧ (d.toNat < 2 ^ (32 - k.numOctaves) → level k d = k.numOctaves)
    ∧ (2 ^ (32 - k.numOctaves) ≤ d.toNat →
        2 ^ (31 - level k d) ≤ d.toNat ∧ d.toNat < 2 ^ (32 - level k d))
    ∧ (d.toNat ≤ d'.toNat → level k d' ≤ level k d ∧ partials (level k d') ≤ partials (level k d))

/-- `41_bank.md` R164: no partial of the selected level reaches half a cycle per sample, nor a quarter where the
increment is below the range of the levels. -/
def Obligations.NoSelectedPartialReachesNyquist : Prop :=
  ∀ (k : Config) (d : Word) (h : Nat), k.legal = true → h ≤ partials (level k d) →
    h * d.toNat < 2 ^ 31 ∧ (d.toNat < 2 ^ (31 - k.numOctaves) → h * d.toNat < 2 ^ 30)

/-- `20_memory.md` R73: both elements that a lookup of a clamped frame reads lie inside the slot's data. -/
def Obligations.BankReadsStayInRange : Prop :=
  ∀ (k : Config) (b : BankSlot) (d phase : Word) (x : F32), k.legal = true → b.ok k = true → b.valid = true →
    let base := (level k d + frameIdx x b * k.numMipmaps) * k.tableSize
    base + splitIdx k phase < b.data.length
    ∧ base + (splitIdx k phase + 1) % k.tableSize < b.data.length

/-- The fraction of a phase is its low bits as a float, scaled exactly, and rounds up to 1.0 just below the next sample
where it has more than 24 bits; a lookup on a table point returns the sample, and one off it interpolates between the
sample and the next, the last sample's next being the first (`41_bank.md` R159, R160). -/
def Obligations.LookupReadsAndInterpolates : Prop :=
  ∀ (k : Config) (b : BankSlot) (d phase : Word) (fi : Nat) (site : Site), k.legal = true →
    let base := (level k d + fi * k.numMipmaps) * k.tableSize
    let idx := phase.toNat / 2 ^ (32 - k.numOctaves)
    let fr := phase.toNat % 2 ^ (32 - k.numOctaves)
    let x := b.read (base + idx)
    let y := b.read (base + (idx + 1) % k.tableSize)
    idx < k.tableSize
    ∧ isFinite (splitFrac k phase) = true
    ∧ fval (splitFrac k phase) * 2 ^ (32 - k.numOctaves) = fval (u2f fr)
    ∧ (k.numOctaves ≥ 8 → fval (u2f fr) = fr * 2 ^ 149)
    ∧ (k.numOctaves < 8 → (splitFrac k phase = F32.one ↔ 2 ^ (32 - k.numOctaves) ≤ fr + 2 ^ (7 - k.numOctaves)))
    ∧ (∃ s0 s1 s2, resample k site b d fi phase = fadd s0 x (fmul s1 (fsub s2 y x) (splitFrac k phase)))
    ∧ (fr = 0 → isFinite x = true → isFinite (fsub site y x) = true → x ≠ 0x80000000 →
        resample k site b d fi phase = x)

/-! ### Floats and smoothers -/

/-- The five operations and `u2f` round the exact result once, to nearest with ties to even (`00_scope.md` R12, R13).
A square root is characterised by the midpoints to the other floats, which no exact root hits. -/
def Obligations.FloatOperationsRoundToNearestEven : Prop :=
  (∀ (site : Site) (a b : F32), isFinite a = true → isFinite b = true →
    NearestEven (fval a + fval b) 1 (fadd site a b)
    ∧ NearestEven (fval a - fval b) 1 (fsub site a b)
    ∧ NearestEven (fval a * fval b) (2 ^ 149) (fmul site a b)
    ∧ (isZero b = false →
        NearestEven (fval a * 2 ^ 149 * (if fsign b then -1 else 1)) (fmag b) (fdiv site a b)))
  ∧ (∀ n : Nat, n < 2 ^ 32 → NearestEven (n * 2 ^ 149) 1 (u2f n))
  ∧ ∀ (site : Site) (x : F32), isFinite x = true → fsign x = false →
      isFinite (fsqrt site x) = true ∧ fsign (fsqrt site x) = false
      ∧ ∀ y : F32, isFinite y = true → fsign y = false →
          (fmag y < fmag (fsqrt site x) → (fmag (fsqrt site x) + fmag y) ^ 2 ≤ 4 * (fmag x * 2 ^ 149))
          ∧ (fmag (fsqrt site x) < fmag y → 4 * (fmag x * 2 ^ 149) ≤ (fmag (fsqrt site x) + fmag y) ^ 2)

/-- The special values of binary32: NaN in, quiet NaN out; the invalid operations; infinities; division by zero; the
sign of a zero result (`00_scope.md` R12); and the identities that the rules lean on (`93_implementation_defined.md`
G1). -/
def Obligations.FloatSpecialValuesAndIdentities : Prop :=
  ∀ (site : Site) (x y : F32),
    (isNaN x = false → x ≠ 0x80000000 → fadd site x F32.zero = x)
    ∧ (isNaN x = false → fmul site x F32.one = x)
    ∧ (isFinite x = true → isZero (fmul site x F32.zero) = true)
    ∧ (fsign x = true → isZero x = false → isNaN (fsqrt site x) = true)
    ∧ (isNaN x = true ∨ isNaN y = true →
        flt x y = false ∧ isNaN (fadd site x y) = true ∧ isNaN (fsub site x y) = true
        ∧ isNaN (fmul site x y) = true ∧ isNaN (fdiv site x y) = true)
    ∧ (isNaN x = true → isNaN (fsqrt site x) = true)
    -- every NaN result is quiet
    ∧ (∀ r ∈ [fadd site x y, fsub site x y, fmul site x y, fdiv site x y, fsqrt site x],
        isNaN r = true → r.getLsbD 22 = true)
    -- infinite operands of a sum and a difference
    ∧ (isInf x = true → isFinite y = true → fadd site x y = x ∧ fsub site x y = x)
    ∧ (isFinite x = true → isInf y = true → fadd site x y = y ∧ fsub site x y = fnegate y)
    ∧ (isInf x = true → isInf y = true →
        (fsign x = fsign y → fadd site x y = x ∧ isNaN (fsub site x y) = true)
        ∧ (fsign x ≠ fsign y → isNaN (fadd site x y) = true ∧ fsub site x y = x))
    -- infinite operands of a product and a quotient, and division by zero
    ∧ (isInf x = true → isNaN y = false →
        (if isZero y then isNaN (fmul site x y) = true ∧ isNaN (fmul site y x) = true
         else isInf (fmul site x y) = true ∧ isInf (fmul site y x) = true)
        ∧ (if isInf y then isNaN (fdiv site x y) = true else isInf (fdiv site x y) = true))
    ∧ (isFinite x = true → isInf y = true → isZero (fdiv site x y) = true)
    ∧ (isFinite x = true → isZero y = true →
        if isZero x then isNaN (fdiv site x y) = true else isInf (fdiv site x y) = true)
    -- roots of zeros and of +inf
    ∧ (isZero x = true ∨ (isInf x = true ∧ fsign x = false) → fsqrt site x = x)
    -- signs
    ∧ (isNaN (fmul site x y) = false → fsign (fmul site x y) = (fsign x != fsign y))
    ∧ (isNaN (fdiv site x y) = false → fsign (fdiv site x y) = (fsign x != fsign y))
    ∧ (isFinite x = true → isFinite y = true →
        (fval x + fval y = 0 → fadd site x y = if fsign x && fsign y then 0x80000000 else 0)
        ∧ (fval x - fval y = 0 → fsub site x y = if fsign x && !fsign y then 0x80000000 else 0))

/-- The conversions of `00_scope.md` R13 truncate toward zero and saturate, and NaN gives 0. -/
def Obligations.ConversionsTruncateAndSaturate : Prop :=
  (∀ x : F32,
    (isNaN x = true ∨ fsign x = true → f2u32 x = 0)
    ∧ (isFinite x = true → fsign x = false → (f2u32 x).toNat = min (2 ^ 32 - 1) (fmag x / 2 ^ 149))
    ∧ (isInf x = true → fsign x = false → (f2u32 x).toNat = 2 ^ 32 - 1)
    ∧ (isNaN x = true → f2i x = 0)
    ∧ (isFinite x = true → f2i x = max (-(2 ^ 31)) (min (2 ^ 31 - 1) (Int.tdiv (fval x) (2 ^ 149))))
    ∧ (isInf x = true → f2i x = if fsign x then -(2 ^ 31) else 2 ^ 31 - 1))
  ∧ (∀ n : Nat, n < 2 ^ 24 → f2u32 (u2f n) = BitVec.ofNat 32 n)
  ∧ ∀ i : Int, i.natAbs < 2 ^ 31 → NearestEven (i * 2 ^ 149) 1 (i2f i)

/-- The operations of a linear smoother cell by cell (`40_smoothers.md` R131 to R134), and that a tick of one sample
is the one-sample tick. -/
def Obligations.LinearSmootherCells : Prop :=
  ∀ (x : Lin) (target : Nat → F32) (on : Nat → Bool) (t : F32) (n : Nat) (site : Site) (e : Nat) (c : LinCell),
    x[e]? = some c →
    (linSnap x target on)[e]? = some (if on e then ⟨target e, 0⟩ else c)
    ∧ (∃ s0 s1, (linSet site x target t on)[e]?
        = some (if on e then ⟨c.cur, fmul s0 (fsub s1 (target e) c.cur) t⟩ else c))
    ∧ (∃ s0, (linTick1 site x)[e]? = some ⟨fadd s0 c.cur c.inc, c.inc⟩)
    ∧ (∃ s0 s1, (linTickN site x n)[e]? = some ⟨fadd s0 c.cur (fmul s1 c.inc (u2f n)), c.inc⟩)
    ∧ (∃ a b, (linTickN site x 1)[e]? = some ⟨a, c.inc⟩ ∧ (linTick1 site x)[e]? = some ⟨b, c.inc⟩ ∧ sameF32 a b)

/-- The operations of a logarithmic smoother cell by cell (`40_smoothers.md` R135 to R137): SET ramps between
positive finite values and snaps otherwise. -/
def Obligations.LogSmootherCells : Prop :=
  ∀ (x : Log) (target : Nat → F32) (on : Nat → Bool) (t : F32) (site : Site) (e : Nat) (c : LogCell),
    x[e]? = some c →
    (logSnap x target on)[e]? = some (if on e then ⟨target e, F32.one⟩ else c)
    ∧ (on e = false → (logSet x target t on)[e]? = some c)
    ∧ (on e = true →
        (flt F32.zero c.cur = true ∧ flt c.cur F32.inf = true ∧ flt F32.zero (target e) = true
            ∧ flt (target e) F32.inf = true →
          (logSet x target t on)[e]? = some ⟨c.cur, pow (fdiv site (target e) c.cur) t⟩
          ∧ (t = F32.one → (logSet x target t on)[e]? = some ⟨c.cur, fdiv site (target e) c.cur⟩)
          ∧ (target e = c.cur → (logSet x target t on)[e]? = some ⟨c.cur, F32.one⟩))
        ∧ (¬ (flt F32.zero c.cur = true ∧ flt c.cur F32.inf = true ∧ flt F32.zero (target e) = true
            ∧ flt (target e) F32.inf = true) →
          (logSet x target t on)[e]? = some ⟨target e, F32.one⟩))
    ∧ (∃ s0, (logTick1 site x)[e]? = some ⟨fmul s0 c.cur c.fac, c.fac⟩)
    ∧ (c.fac = F32.one → isNaN c.cur = false → (logTick1 site x)[e]? = some c)

/-! ### The oscillator -/

/-- `DELTA(x)` (`42_oscillator.md` R182): cycles per sample in units of 2^−32, truncated exactly, 0 for a negative
value or NaN, saturating at 2^32 − 1; and `START(r, u)` (R184): the formula, and 0 for every draw when the amount is
zero, negative or NaN. -/
def Obligations.IncrementAndStartingPhase : Prop :=
  (∀ x : F32, (isNaN x = true ∨ fsign x = true → delta x = 0)
    ∧ (isFinite x = true → fsign x = false →
        (delta x).toNat = min (2 ^ 32 - 1) (fmag x * 2 ^ 32 / 2 ^ 149))
    ∧ (isInf x = true → fsign x = false → (delta x).toNat = 2 ^ 32 - 1))
  ∧ ∀ (r : F32) (u : Word) (site : Site), start r u = f2u32 (fmul site r (u2f u.toNat))
    ∧ (isZero r = true ∨ fsign r = true ∨ isNaN r = true → start r u = 0)

/-- `FRAMEIDX(x, slot)` (`42_oscillator.md` R188): the truncation, clamped to the slot's frames; and
`UNISON_COUNT(x)` (`43_unison_voice.md` R202): the truncation, clamped to `[1, MAX_UNISON]`. -/
def Obligations.FrameIndexAndUnisonCountAreClamped : Prop :=
  (∀ (x : F32) (b : BankSlot), 1 ≤ b.numFrames →
    frameIdx x b < b.numFrames
    ∧ (isNaN x = true ∨ fsign x = true → frameIdx x b = 0)
    ∧ (isFinite x = true → fsign x = false → b.numFrames ≤ 2 ^ 31 →
        frameIdx x b = min (fmag x / 2 ^ 149) (b.numFrames - 1))
    ∧ (isInf x = true → fsign x = false → b.numFrames ≤ 2 ^ 31 → frameIdx x b = b.numFrames - 1))
  ∧ ∀ (k : Config) (x : F32), 1 ≤ k.maxUnison →
    1 ≤ unisonCount k x ∧ unisonCount k x ≤ k.maxUnison
    ∧ (isNaN x = true ∨ fsign x = true → unisonCount k x = 1)
    ∧ (isFinite x = true → fsign x = false → k.maxUnison < 2 ^ 31 →
        unisonCount k x = max 1 (min (fmag x / 2 ^ 149) k.maxUnison))
    ∧ (isInf x = true → fsign x = false → k.maxUnison < 2 ^ 31 → unisonCount k x = k.maxUnison)

/-- `42_oscillator.md` R183, R191: with a constant increment the phase after any number of steps is
`p0 + steps · d` modulo 2^32, so that it returns exactly when `steps · d` is a whole period. -/
def Obligations.PhaseAccumulatesWithoutDrift : Prop :=
  ∀ (k : Config) (bank : BankSlot) (o : Osc) (sites : List Site) (e : Nat) (p : Word) (c : LogCell),
    o.phase[e]? = some p → o.pinc[e]? = some c → c.fac = F32.one →
    let d := delta c.cur
    let o' := sites.foldl (fun q site => (oscStep k site bank q).1) o
    o'.phase[e]? = some (p + BitVec.ofNat 32 (sites.length * d.toNat))
    ∧ (2 ^ 32 ∣ sites.length * d.toNat → o'.phase[e]? = some p)

/-- `OSC.REMASK` (`42_oscillator.md` R190): a rising element takes the next draw in ascending order, every other phase
stays, the smoothers stay, the mask is the new one. -/
def Obligations.RemaskReseedsRisingElements : Prop :=
  ∀ (o : Osc) (newmask : Mask) (r : Nat → F32) (draws : Nat),
    let up := fun e => sel newmask e && !sel o.omask e
    let before := fun e => ((List.range e).filter up).length
    (oscRemask o newmask r draws).2 = draws + before o.phase.length
    ∧ (oscRemask o newmask r draws).1 = { o with phase := (oscRemask o newmask r draws).1.phase, omask := newmask }
    ∧ ∀ e, (oscRemask o newmask r draws).1.phase[e]? = (o.phase[e]?).map fun p =>
        if up e then start (r e) (Config.draw32 (draws + before e)) else p

/-- `OSC.STEP` (`42_oscillator.md` R186, R189): smoothers tick, the phase advances by the ticked increment before the
lookup, and an element that is masked off gives `+0.0`. -/
def Obligations.OscillatorStepsOneSample : Prop :=
  ∀ (k : Config) (site : Site) (bank : BankSlot) (o : Osc) (e : Nat) (p : Word) (pc : LogCell) (fc : LinCell),
    o.phase[e]? = some p → o.pinc[e]? = some pc → o.frame[e]? = some fc →
    let q := oscStep k site bank o
    ∃ s0 s1 s2,
      let inc := fmul s0 pc.cur pc.fac
      let fr := fadd s1 fc.cur fc.inc
      q.1.omask = o.omask ∧ q.1.pinc[e]? = some ⟨inc, pc.fac⟩ ∧ q.1.frame[e]? = some ⟨fr, fc.inc⟩
      ∧ q.1.phase[e]? = some (p + delta inc)
      ∧ q.2[e]? = some (if sel o.omask e
          then resample k s2 bank (delta inc) (frameIdx fr bank) (p + delta inc) else 0)

/-! ### The unison voice -/

/-- `PACK(n)` (`43_unison_voice.md` R205): the group count, the masks, the place of each copy, and that the lanes on
are exactly the lanes that hold a copy. -/
def Obligations.PackPlacesEveryCopy : Prop :=
  ∀ (k : Config) (n g j : Nat), k.legal = true → 1 ≤ n → n ≤ k.maxUnison → j < k.v →
    let G := packGroups k n
    let r := n - (G - 1) * k.v
    1 ≤ G ∧ G ≤ k.k ∧ (G - 1) * k.v < n ∧ n ≤ G * k.v
    ∧ maskBit (packMask k n g) j = (decide (g + 1 < G) || (decide (g + 1 = G) && decide (k.v - r ≤ j)))
    ∧ (∀ j', k.v ≤ j' → maskBit (packMask k n g) j' = false)
    ∧ maskBit (packMask k n g) j = (copyAt k n g j).isSome
    ∧ ∀ q, copyAt k n g j = some q ↔
        q < n ∧ g = (if q < (G - 1) * k.v then q / k.v else G - 1)
        ∧ j = (if q < (G - 1) * k.v then q % k.v else k.v - r + (q - (G - 1) * k.v))

/-- `DETUNE_ROW(n)` has values in [−1, 1], pairs of opposite sign from the innermost outward, and a sum of 0
(`43_unison_voice.md` R203); that an odd row begins with a zero and every pair with the same sign is the model's reading of
that contract (log entry 7); the packed table holds 0.0 where there is no copy (R205, R215). -/
def Obligations.DetuneRowIsSymmetric : Prop :=
  ∀ (k : Config) (n : Nat), 1 ≤ n → n ≤ 2 ^ 24 →
    let row := detuneRow k n
    (∀ q, q < n → isFinite (row q) = true ∧ fmag (row q) ≤ 2 ^ 149)
    ∧ (n % 2 = 1 → isZero (row 0) = true)
    ∧ (∀ p, p < n / 2 →
        fval (row (n % 2 + 2 * p + 1)) = -fval (row (n % 2 + 2 * p))
        ∧ fsign (row (n % 2 + 2 * p)) = fsign (row (n % 2))
        ∧ (1 ≤ p → fmag (row (n % 2 + 2 * (p - 1))) ≤ fmag (row (n % 2 + 2 * p))))
    ∧ ((List.range n).map fun q => fval (row q)).sum = 0
    ∧ ∀ g j, detuneRom k n g j = ((copyAt k n g j).map row).getD 0

/-- `NOTE_INC(note)` (`43_unison_voice.md` R216): the formula in its order of roundings, exactly `440.0 / rate` for
note 69, twice and half the numerator an octave up and down under the integer-exactness property, and never negative
nor NaN. -/
def Obligations.NoteIncrementFollowsTheNote : Prop :=
  ∀ (k : Config) (site : Site) (rate : F32) (note : Nat), flt F32.zero rate = true → flt rate F32.inf = true →
    note ≤ 127 →
    (∃ s0 s1 s2, noteInc k site rate note
      = fdiv s0 (fmul s1 F32.a440 (exp2 k (fdiv s2 (i2f ((note : Int) - 69)) F32.twelve))) rate)
    ∧ noteInc k site rate 69 = fdiv site F32.a440 rate
    ∧ (k.exp2IntegerExact = true → noteInc k site rate 81 = fdiv site 0x445C0000 rate
        ∧ noteInc k site rate 57 = fdiv site 0x435C0000 rate)
    ∧ isNaN (noteInc k site rate note) = false
    ∧ (fsign (noteInc k site rate note) = true → isZero (noteInc k site rate note) = true)

/-- The targets of `43_unison_voice.md` R206 and R207: the formulas, and that with no detune and no transposition
every copy's target is the base increment. -/
def Obligations.TargetsOfACopy : Prop :=
  ∀ (k : Config) (site : Site) (cl : Cluster) (l n g e : Nat), k.legal = true → 1 ≤ n → n ≤ 2 ^ 24 → e < k.e →
    let x := 2 * l + e % 2
    let d := ((copyAt k n g (e / 2)).map (detuneRow k n)).getD 0
    (∃ s0 s1 s2 s3 s4, targetPinc k site cl l n g e
      = fmul s0 (cl.base x) (exp2 k (fdiv s1
          (fadd s2 (fmul s3 d (fmul s4 (cl.cur 0 x) (cl.cur 1 x))) (cl.cur 2 x)) F32.twelve)))
    ∧ (cl.cur 0 x = 0 → isFinite (cl.cur 1 x) = true → cl.cur 2 x = 0 → isNaN (cl.base x) = false →
        targetPinc k site cl l n g e = cl.base x)
    ∧ (copyAt k n g (e / 2) = none → targetFrame k site cl l n g e = cl.cur 3 x)
    ∧ (∀ q, copyAt k n g (e / 2) = some q →
        ∃ s0, targetFrame k site cl l n g e = fadd s0 (cl.cur 3 x) (frameSpread k n q))
    ∧ (k.frameSpread = .specDefault → isNaN (cl.cur 3 x) = false → cl.cur 3 x ≠ 0x80000000 →
        targetFrame k site cl l n g e = cl.cur 3 x)

/-- `UV.CONFIG` (`43_unison_voice.md` R209): the count and packing follow the lane's `UNISON` value; a copy that turns
on is snapped and each of its elements starts from its own draw, in ascending order of group and element; one that stays on
keeps its phase and is snapped (instant) or retargeted (smoothed); one that is off keeps everything. -/
def Obligations.UnisonVoiceIsConfigured : Prop :=
  ∀ (k : Config) (site : Site) (cl : Cluster) (l : Nat) (ramp : Option F32) (uv : Voice) (draws : Nat),
    let n := unisonCount k (cl.cur 8 (2 * l))
    let p := uvConfig k site cl l ramp uv draws
    p.1.nUni = n ∧ p.1.nOsc = packGroups k n ∧ p.1.tailMask = packMask k n (packGroups k n - 1)
    ∧ p.1.osc.length = uv.osc.length ∧ p.2 = draws + turnsBefore k n uv uv.osc.length 0
    ∧ ∃ tSite fSite, ∀ g o, uv.osc[g]? = some o →
        let tp := targetPinc k tSite cl l n g
        let tf := targetFrame k fSite cl l n g
        ∃ o', p.1.osc[g]? = some o' ∧ o'.omask = packMask k n g
          ∧ ∀ e ph pc fc, o.phase[e]? = some ph → o.pinc[e]? = some pc → o.frame[e]? = some fc →
            (copyOn k n g e = false →
              o'.phase[e]? = some ph ∧ o'.pinc[e]? = some pc ∧ o'.frame[e]? = some fc)
            ∧ (copyOn k n g e = true → sel o.omask e = false →
              o'.phase[e]? = some (start (cl.cur 4 (2 * l + e % 2))
                (Config.draw32 (draws + turnsBefore k n uv g e)))
              ∧ o'.pinc[e]? = some ⟨tp e, F32.one⟩ ∧ o'.frame[e]? = some ⟨tf e, 0⟩)
            ∧ (copyOn k n g e = true → sel o.omask e = true →
              o'.phase[e]? = some ph
              ∧ (ramp = none → o'.pinc[e]? = some ⟨tp e, F32.one⟩ ∧ o'.frame[e]? = some ⟨tf e, 0⟩)
              ∧ ∀ t, ramp = some t → o'.pinc[e]? = some (logSetCell pc (tp e) t)
                  ∧ ∃ s0 s1, o'.frame[e]? = some ⟨fc.cur, fmul s0 (fsub s1 (tf e) fc.cur) t⟩)

/-- `UV.PROCESS` and `FOLD` (`43_unison_voice.md` R212, R213): the groups in use step and add in ascending order into an
accumulator that starts at `+0.0`, the others do not step, and the left and the right elements fold in ascending order by
default, or else each channel in the order of the build, which adds every lane once (log entry 7). -/
def Obligations.VoiceSumsItsGroups : Prop :=
  ∀ (k : Config) (site : Site) (bank : BankSlot) (uv : Voice), k.legal = true →
    uv.nOsc ≤ uv.osc.length →
    let p := uvProcess k site bank uv
    p.1 = { uv with osc := p.1.osc } ∧ p.1.osc.length = uv.osc.length
    ∧ ∃ (so : Nat → Site) (sa sf : Nat → Nat → Site),
        (∀ g o, uv.osc[g]? = some o →
          p.1.osc[g]? = some (if g < uv.nOsc then (oscStep k (so g) bank o).1 else o))
        ∧ let acc := fun e => (List.range uv.nOsc).foldl (fun a g =>
            fadd (sa g e) a ((oscStep k (so g) bank (uv.osc.getD g default)).2.getD e 0)) 0
          (k.foldOrder = none →
            p.2.1 = (List.range (k.v - 1)).foldl (fun a j => fadd (sf 0 j) a (acc (2 * (j + 1)))) (acc 0)
            ∧ p.2.2 = (List.range (k.v - 1)).foldl (fun a j => fadd (sf 1 j) a (acc (2 * (j + 1) + 1))) (acc 1))
          ∧ ∀ left right, k.foldOrder = some (left, right) →
            left.leaves.Perm (List.range k.v) ∧ right.leaves.Perm (List.range k.v)
            ∧ TreeSum (fun j => acc (2 * j)) left p.2.1 ∧ TreeSum (fun j => acc (2 * j + 1)) right p.2.2

/-! ### The cluster -/

/-- `60_exceptions.md` R302, R303: a cluster command before INIT fails first, then a cluster index out of range (source
before destination), then a lane index out of range (source before destination), whatever its other operands. -/
def Obligations.ClusterCommandChecksInOrder : Prop :=
  ∀ (s : State) (c c2 lane lane2 id : Field) (mask : Mask) (value : F32) (samples n out : Word)
    (note : BitVec 7),
    (∀ i ∈ [Instr.process c mask n out, .setp c mask id value, .setps c mask id value samples,
        .von c lane note, .voff c lane, .move c lane c2 lane2, .reset c mask],
      (s.initialized = false → exec i s = .next (failed s 2 0))
      ∧ (s.initialized = true → s.numClusters.toNat ≤ c.toNat →
          exec i s = .next (failed s 3 (c.setWidth 32))))
    ∧ (clusterReady s c → s.cfg.v ≤ lane.toNat →
        exec (.von c lane note) s = .next (failed s 4 (lane.setWidth 32))
        ∧ exec (.voff c lane) s = .next (failed s 4 (lane.setWidth 32)))
    ∧ (clusterReady s c → s.numClusters.toNat ≤ c2.toNat →
        exec (.move c lane c2 lane2) s = .next (failed s 3 (c2.setWidth 32)))
    ∧ (clusterReady s c → clusterReady s c2 → s.cfg.v ≤ lane.toNat →
        exec (.move c lane c2 lane2) s = .next (failed s 4 (lane.setWidth 32)))
    ∧ (clusterReady s c → clusterReady s c2 → lane.toNat < s.cfg.v → s.cfg.v ≤ lane2.toNat →
        exec (.move c lane c2 lane2) s = .next (failed s 4 (lane2.setWidth 32)))

/-- SETP writes the value to both elements of every selected lane of one parameter, with no ramp, and to nothing else;
an unknown id changes nothing (`44_cluster.md` R230 to R232, `30_encoding.md` R111). -/
def Obligations.SetpSnapsTheSelectedLanes : Prop :=
  ∀ (c : Field) (mask : Mask) (id : Field) (value : F32) (s : State), clusterReady s c →
    (8 < id.toNat → exec (.setp c mask id value) s = .next (answeredOk s 0))
    ∧ (id.toNat ≤ 8 → ∃ t, exec (.setp c mask id value) s = .next t
        ∧ t = { answeredOk s 0 with clusters := t.clusters }
        ∧ onlyCluster s t c.toNat ∧ besideParams t c.toNat = besideParams s c.toNat
        ∧ ∀ p e, paramCell t c.toNat p e = (paramCell s c.toNat p e).map fun x =>
            if p = id.toNat ∧ maskBit mask (e / 2) = true then ⟨mapParam s.cfg p value, 0⟩ else x)

/-- SETPS with a count gives the selected elements the increment `(value − cur) · (1/samples)` and moves no current
value; with a count of 0 it is SETP; an unknown id changes nothing (`44_cluster.md` R234). -/
def Obligations.SetpsRampsTheSelectedLanes : Prop :=
  ∀ (c : Field) (mask : Mask) (id : Field) (value : F32) (samples : Word) (s : State), clusterReady s c →
    (8 < id.toNat → exec (.setps c mask id value samples) s = .next (answeredOk s 0))
    ∧ (id.toNat ≤ 8 → ∃ t, exec (.setps c mask id value samples) s = .next t
        ∧ t = { answeredOk s 0 with clusters := t.clusters, nanSeed := t.nanSeed }
        ∧ onlyCluster s t c.toNat ∧ besideParams t c.toNat = besideParams s c.toNat
        ∧ ∀ p e, ∃ s0 s1, paramCell t c.toNat p e = (paramCell s c.toNat p e).map fun x =>
            if p = id.toNat ∧ maskBit mask (e / 2) = true then
              (if samples = 0 then ⟨mapParam s.cfg p value, 0⟩
               else ⟨x.cur, fmul s0 (fsub s1 (mapParam s.cfg p value) x.cur)
                  (fdiv [] F32.one (u2f samples.toNat))⟩)
            else x)

/-- VON (`44_cluster.md` R245): the note's increment in both elements of the lane, the voice configured from a clear
mask with its smoothers snapped and the elements of copy q starting from draws 2q and 2q + 1 of the command, the active
bit; the weights snapped when and only when the cluster was empty; no
other lane, no parameter and nothing else changes. -/
def Obligations.VonStartsTheVoice : Prop :=
  ∀ (c lane : Field) (note : BitVec 7) (s : State), s.inv = true → clusterReady s c → lane.toNat < s.cfg.v →
    let k := s.cfg
    let l := lane.toNat
    let cl := s.cluster c.toNat
    ∃ t, exec (.von c lane note) s = .next t
      ∧ t = { answeredOk s 0 with clusters := t.clusters, draws := t.draws, nanSeed := t.nanSeed }
      ∧ onlyCluster s t c.toNat
      ∧ let cl' := t.cluster c.toNat
        let n := unisonCount k (cl.cur 8 (2 * l))
        cl'.params = cl.params
        ∧ (∀ j, maskBit cl'.laneActive j = (decide (j = l) || maskBit cl.laneActive j))
        ∧ (cl.laneActive ≠ 0 → cl'.wn = cl.wn ∧ cl'.wf = cl.wf)
        ∧ (∃ site, ∀ e, e < k.e →
            cl'.basePinc[e]? = (if e / 2 = l then some (noteInc k site s.sampleRate note.toNat)
              else cl.basePinc[e]?)
            ∧ (cl.laneActive = 0 → ∃ s1, cl'.wn[e]? = some ⟨weightNormal k s1 cl e, 0⟩
                ∧ cl'.wf[e]? = some ⟨weightFlipped k s1 cl e, 0⟩))
        ∧ (∀ j, j ≠ l → cl'.voices[j]? = cl.voices[j]?)
        ∧ (cl'.voice l).nUni = n ∧ (cl'.voice l).nOsc = packGroups k n
        ∧ (cl'.voice l).tailMask = packMask k n (packGroups k n - 1)
        ∧ t.draws = s.draws + 2 * n
        ∧ ∃ tSite fSite, ∀ g e, g < k.k → e < k.e →
            let o := (cl.voice l).osc.getD g default
            let o' := (cl'.voice l).osc.getD g default
            o'.omask = packMask k n g
            ∧ (copyOn k n g e = true →
                (∃ q, copyAt k n g (e / 2) = some q ∧ o'.phase[e]? = some (start (cl.cur 4 (2 * l + e % 2))
                  (Config.draw32 (s.draws + 2 * q + e % 2))))
                ∧ o'.pinc[e]? = some ⟨targetPinc k tSite cl' l n g e, F32.one⟩
                ∧ o'.frame[e]? = some ⟨targetFrame k fSite cl' l n g e, 0⟩)
            ∧ (copyOn k n g e = false →
                o'.phase[e]? = o.phase[e]? ∧ o'.pinc[e]? = o.pinc[e]? ∧ o'.frame[e]? = o.frame[e]?)

/-- VOFF (`44_cluster.md` R249): clears the active bit and every mask of the lane's oscillators, and nothing else; of
an inactive lane it changes nothing (`30_encoding.md` R111). -/
def Obligations.VoffSilencesTheLane : Prop :=
  ∀ (c lane : Field) (s : State), s.inv = true → clusterReady s c → lane.toNat < s.cfg.v →
    let l := lane.toNat
    let cl := s.cluster c.toNat
    (maskBit cl.laneActive l = false → exec (.voff c lane) s = .next (answeredOk s 0))
    ∧ (maskBit cl.laneActive l = true → ∃ t, exec (.voff c lane) s = .next t
        ∧ t = { answeredOk s 0 with clusters := t.clusters }
        ∧ onlyCluster s t c.toNat
        ∧ let cl' := t.cluster c.toNat
          cl' = { cl with laneActive := cl'.laneActive, voices := cl'.voices }
          ∧ (∀ j, maskBit cl'.laneActive j = (!decide (j = l) && maskBit cl.laneActive j))
          ∧ (∀ j, j ≠ l → cl'.voices[j]? = cl.voices[j]?)
          ∧ cl'.voices[l]? = some { cl.voice l with osc := (cl.voice l).osc.map fun o => { o with omask := 0 } })

/-- MOVE (`44_cluster.md` R253, R254 (a)): the destination's `LANESTATE` becomes the source's as it was, and every
other lane of every cluster and everything else is as before; a move onto itself changes nothing. -/
def Obligations.MoveCopiesOneLane : Prop :=
  ∀ (c1 l1 c2 l2 : Field) (s : State), s.inv = true → clusterReady s c1 → clusterReady s c2 →
    l1.toNat < s.cfg.v → l2.toNat < s.cfg.v →
    (c1 = c2 → l1 = l2 → exec (.move c1 l1 c2 l2) s = .next (answeredOk s 0))
    ∧ (¬ (c1 = c2 ∧ l1 = l2) → ∃ t, exec (.move c1 l1 c2 l2) s = .next t
        ∧ t = { answeredOk s 0 with clusters := t.clusters }
        ∧ onlyCluster s t c2.toNat
        ∧ (t.cluster c2.toNat).ok s.cfg = true
        ∧ getLane (t.cluster c2.toNat) l2.toNat = getLane (s.cluster c1.toNat) l1.toNat
        ∧ ∀ l, l < s.cfg.v → l ≠ l2.toNat →
            getLane (t.cluster c2.toNat) l = getLane (s.cluster c2.toNat) l)

/-- RESET (`44_cluster.md` R257): every phase of every group of the selected lanes takes its own draw, in ascending
order of lane, group and element; nothing else changes. -/
def Obligations.ResetReseedsTheSelectedLanes : Prop :=
  ∀ (c : Field) (mask : Mask) (s : State), s.inv = true → clusterReady s c →
    let k := s.cfg
    let cl := s.cluster c.toNat
    let lanesBefore := fun l => ((List.range l).filter fun j => maskBit mask j).length
    ∃ t, exec (.reset c mask) s = .next t
      ∧ t = { answeredOk s 0 with clusters := t.clusters, draws := s.draws + lanesBefore k.v * (k.k * k.e) }
      ∧ onlyCluster s t c.toNat
      ∧ let cl' := t.cluster c.toNat
        cl' = { cl with voices := cl'.voices } ∧ cl'.voices.length = k.v
        ∧ ∀ l, l < k.v →
          (maskBit mask l = false → cl'.voice l = cl.voice l)
          ∧ (maskBit mask l = true →
            cl'.voice l = { cl.voice l with osc := (cl'.voice l).osc } ∧ (cl'.voice l).osc.length = k.k
            ∧ ∀ g, g < k.k →
              let o := (cl.voice l).osc.getD g default
              let o' := (cl'.voice l).osc.getD g default
              o' = { o with phase := o'.phase } ∧ o'.phase.length = k.e
              ∧ ∀ e, e < k.e → o'.phase[e]? = some (start (cl.cur 4 (2 * l + e % 2))
                  (Config.draw32 (s.draws + (lanesBefore l * k.k + g) * k.e + e))))

/-- The errors of PROCESS after its cluster checks, in order (`44_cluster.md` R262, `60_exceptions.md` R302). -/
def Obligations.ProcessErrorsInOrder : Prop :=
  ∀ (c : Field) (mask : Mask) (n out : Word) (s : State), clusterReady s c →
    (n = 0 ∨ s.maxBlock.toNat < n.toNat ∨ s.cfg.outSize < out.toNat + n.toNat * s.cfg.e →
      exec (.process c mask n out) s = .next (failed s 7 n))
    ∧ (n ≠ 0 → n.toNat ≤ s.maxBlock.toNat → out.toNat + n.toNat * s.cfg.e ≤ s.cfg.outSize →
        s.activeBank.valid = false → exec (.process c mask n out) s = .next (failed s 6 0))

/-- PROCESS completes (`44_cluster.md` R262, `20_memory.md` R75, `70_reset_and_hazards.md` R349): it writes exactly its
window of OUT, `+0.0` in the elements of lanes not processed; it ticks every parameter by n samples and leaves the base
increments and the active bits; the voices of lanes not processed are frozen; no other cluster and nothing else
changes. -/
def Obligations.ProcessWritesOneBlock : Prop :=
  ∀ (c : Field) (mask : Mask) (n out : Word) (s : State), s.inv = true → clusterReady s c →
    n ≠ 0 → n.toNat ≤ s.maxBlock.toNat → out.toNat + n.toNat * s.cfg.e ≤ s.cfg.outSize →
    s.activeBank.valid = true →
    let k := s.cfg
    let cl := s.cluster c.toNat
    let m := cl.laneActive &&& mask
    ∃ t, exec (.process c mask n out) s = .next t
      ∧ t = { answeredOk s 0 with
          clusters := t.clusters, outMem := t.outMem, draws := t.draws, nanSeed := t.nanSeed }
      ∧ onlyCluster s t c.toNat
      ∧ (∀ a, a < out.toNat ∨ out.toNat + n.toNat * k.e ≤ a → t.outMem.lookup a = s.outMem.lookup a)
      ∧ (∀ i e, i < n.toNat → e < k.e → ∃ x, t.outMem.lookup (out.toNat + i * k.e + e) = some x
          ∧ (maskBit m (e / 2) = false → x = 0))
      ∧ let cl' := t.cluster c.toNat
        cl'.laneActive = cl.laneActive ∧ cl'.basePinc = cl.basePinc
        ∧ (∀ p e, ∃ s0 s1, paramCell t c.toNat p e = (paramCell s c.toNat p e).map fun x =>
            ⟨fadd s0 x.cur (fmul s1 x.inc (u2f n.toNat)), x.inc⟩)
        ∧ (∀ l, maskBit m l = false → cl'.voices[l]? = cl.voices[l]?)

/-- PROCESS is its four steps in order (`44_cluster.md` R262): the parameters tick, then the processed voices are
retargeted over the block with draws taken in ascending lane order, then both weight ramps are set, all from the ticked
parameters, and then the samples run, sample i into `out + i·E` (`20_memory.md` R75). -/
def Obligations.ProcessRunsItsStepsInOrder : Prop :=
  ∀ (c : Field) (mask : Mask) (n out : Word) (s : State), s.inv = true → clusterReady s c →
    n ≠ 0 → n.toNat ≤ s.maxBlock.toNat → out.toNat + n.toNat * s.cfg.e ≤ s.cfg.outSize →
    s.activeBank.valid = true →
    let k := s.cfg
    let cl := s.cluster c.toNat
    let m := cl.laneActive &&& mask
    let bank := s.bank s.activeBank.slot.toNat
    ∃ (t : State) (at0 : Nat → Cluster) (site sTick : Site) (sVoice : Nat → Site) (sStep : Nat → Site),
      exec (.process c mask n out) s = .next t ∧ t.cluster c.toNat = at0 n.toNat
      -- (1) and (2)
      ∧ (at0 0).params = (clTickN sTick cl n.toNat).params
      ∧ t.draws = laneDraw k (clTickN sTick cl n.toNat) m s.draws k.v
      ∧ (∀ l uv, cl.voices[l]? = some uv → (at0 0).voices[l]?
          = some (if maskBit m l then (uvSetSmooth k (sVoice l) (clTickN sTick cl n.toNat) l
              (fdiv [] F32.one (u2f n.toNat)) uv (laneDraw k (clTickN sTick cl n.toNat) m s.draws l)).1 else uv))
      -- (3)
      ∧ (∀ (e : Nat) (x : LinCell), cl.wn[e]? = some x → ∃ s0 s1, (at0 0).wn[e]? = some (LinCell.mk x.cur
          (fmul s0 (fsub s1 (weightNormal k site (at0 0) e) x.cur) (fdiv [] F32.one (u2f n.toNat)))))
      ∧ (∀ (e : Nat) (x : LinCell), cl.wf[e]? = some x → ∃ s0 s1, (at0 0).wf[e]? = some (LinCell.mk x.cur
          (fmul s0 (fsub s1 (weightFlipped k site (at0 0) e) x.cur) (fdiv [] F32.one (u2f n.toNat)))))
      -- (4)
      ∧ ∀ i, i < n.toNat →
          at0 (i + 1) = (clStep k (sStep i) bank (at0 i) m).1
          ∧ ∀ e, e < k.e → t.outMem.lookup (out.toNat + i * k.e + e)
              = (clStep k (sStep i) bank (at0 i) m).2[e]?

/-- `CL.STEP` (`44_cluster.md` R260): each processed lane's pair mixed by its ticked weights with its channels
exchanged, `+0.0` for the others, all weight cells ticked. -/
def Obligations.ClusterStepMixesEachLane : Prop :=
  ∀ (k : Config) (site : Site) (bank : BankSlot) (cl : Cluster) (m : Mask), k.legal = true → cl.ok k = true →
    let p := clStep k site bank cl m
    p.1 = { cl with voices := p.1.voices, wn := p.1.wn, wf := p.1.wf } ∧ p.2.length = k.e
    ∧ (∀ (e : Nat) (x y : LinCell), cl.wn[e]? = some x → cl.wf[e]? = some y →
        ∃ s0 s1, p.1.wn[e]? = some (LinCell.mk (fadd s0 x.cur x.inc) x.inc)
          ∧ p.1.wf[e]? = some (LinCell.mk (fadd s1 y.cur y.inc) y.inc))
    ∧ ∀ l uv, cl.voices[l]? = some uv →
        (maskBit m l = false →
          p.1.voices[l]? = some uv ∧ p.2[2 * l]? = some 0 ∧ p.2[2 * l + 1]? = some 0)
        ∧ (maskBit m l = true → ∃ sv s0 s1 s2 s3 s4 s5,
          let q := uvProcess k sv bank uv
          p.1.voices[l]? = some q.1
          ∧ p.2[2 * l]? = some (fadd s0 (fmul s1 (linCur p.1.wn (2 * l)) q.2.1)
              (fmul s2 (linCur p.1.wf (2 * l)) q.2.2))
          ∧ p.2[2 * l + 1]? = some (fadd s3 (fmul s4 (linCur p.1.wn (2 * l + 1)) q.2.2)
              (fmul s5 (linCur p.1.wf (2 * l + 1)) q.2.1)))

/-- `CL.WEIGHTS` (`44_cluster.md` R239, R240): the formulas, and that the stereo widths 1 and 0 silence and equal the
flipped weight. -/
def Obligations.MixWeightsFollowTheParameters : Prop :=
  ∀ (k : Config) (site : Site) (cl : Cluster) (x : Nat),
    let nf := i2f (unisonCount k (cl.cur 8 (2 * (x / 2))))
    ∃ (s0 : Site) (sp s1 s2 s3 s4 : Bool → Site),
      let pan := if x % 2 = 0 then fsub s0 F32.one (cl.cur 7 x) else cl.cur 7 x
      weightNormal k site cl x
        = fmul (s1 true) (fsqrt (s2 true) (fmul (s3 true) (fdiv (sp true) pan nf)
            (fadd (s4 true) F32.one (cl.cur 6 x)))) (cl.cur 5 x)
      ∧ weightFlipped k site cl x
        = fmul (s1 false) (fsqrt (s2 false) (fmul (s3 false) (fdiv (sp false) pan nf)
            (fsub (s4 false) F32.one (cl.cur 6 x)))) (cl.cur 5 x)
      ∧ (cl.cur 6 x = F32.zero → sameF32 (weightNormal k site cl x) (weightFlipped k site cl x))
      ∧ (cl.cur 6 x = F32.one → isFinite (fdiv s0 pan nf) = true → isFinite (cl.cur 5 x) = true →
          isZero (weightFlipped k site cl x) = true)

/-- What a lane sounds in a PROCESS depends on that lane, the bank and the block length alone (`44_cluster.md`
R254 (b), `70_reset_and_hazards.md` R347, R353): two clusters that hold the same `LANESTATE` in one lane, NaN for NaN,
give the same samples of it and hold the same `LANESTATE` afterwards, NaN for NaN, whatever the other lanes hold,
whichever of them are processed and whatever the payloads of NaNs, given the same draws of starting phases, or none that
counts. -/
def Obligations.LaneOutputIsIndependentOfOtherLanes : Prop :=
  ∀ (c c' : Field) (mask mask' : Mask) (n out out' : Word) (s s' : State) (l : Nat),
    s.inv = true → s'.inv = true → clusterReady s c → clusterReady s' c' →
    n ≠ 0 → n.toNat ≤ s.maxBlock.toNat → n.toNat ≤ s'.maxBlock.toNat → s'.cfg = s.cfg →
    out.toNat + n.toNat * s.cfg.e ≤ s.cfg.outSize → out'.toNat + n.toNat * s.cfg.e ≤ s.cfg.outSize →
    s.activeBank.valid = true → s'.activeBank.valid = true →
    s'.bank s'.activeBank.slot.toNat = s.bank s.activeBank.slot.toNat →
    l < s.cfg.v → maskBit mask l = maskBit mask' l →
    let cl := s.cluster c.toNat
    let cl' := s'.cluster c'.toNat
    sameLane (getLane cl l) (getLane cl' l) →
    sameDraws s.cfg (clTickN [] cl n.toNat) (clTickN [] cl' n.toNat) (cl.laneActive &&& mask)
      (cl'.laneActive &&& mask') s.draws s'.draws l l →
    ∃ t t', exec (.process c mask n out) s = .next t ∧ exec (.process c' mask' n out') s' = .next t'
      ∧ sameLane (getLane (t.cluster c.toNat) l) (getLane (t'.cluster c'.toNat) l)
      ∧ ∀ i ch, i < n.toNat → ch < 2 → ∃ x x',
          t.outMem.lookup (out.toNat + i * s.cfg.e + 2 * l + ch) = some x
          ∧ t'.outMem.lookup (out'.toNat + i * s.cfg.e + 2 * l + ch) = some x' ∧ sameF32 x x'

/-- A voice moved to another lane goes on sample for sample (`44_cluster.md` R254 (b)): a PROCESS of a lane and a PROCESS
of another lane, of any cluster, that holds the same `LANESTATE` give the same samples, NaN for NaN, and the same phases and
masks afterwards, whatever the payloads of NaNs (`70_reset_and_hazards.md` R353), given the same draws of starting phases,
or none that counts. -/
def Obligations.MovedVoiceContinuesSeamlessly : Prop :=
  ∀ (c c' : Field) (mask mask' : Mask) (n out out' : Word) (s s' : State) (l l' : Nat),
    s.inv = true → s'.inv = true → clusterReady s c → clusterReady s' c' →
    n ≠ 0 → n.toNat ≤ s.maxBlock.toNat → n.toNat ≤ s'.maxBlock.toNat → s'.cfg = s.cfg →
    out.toNat + n.toNat * s.cfg.e ≤ s.cfg.outSize → out'.toNat + n.toNat * s.cfg.e ≤ s.cfg.outSize →
    s.activeBank.valid = true → s'.activeBank.valid = true →
    s'.bank s'.activeBank.slot.toNat = s.bank s.activeBank.slot.toNat →
    l < s.cfg.v → l' < s.cfg.v → maskBit mask l = maskBit mask' l' →
    let cl := s.cluster c.toNat
    let cl' := s'.cluster c'.toNat
    getLane cl l = getLane cl' l' →
    sameDraws s.cfg (clTickN [] cl n.toNat) (clTickN [] cl' n.toNat) (cl.laneActive &&& mask)
      (cl'.laneActive &&& mask') s.draws s'.draws l l' →
    ∃ t t', exec (.process c mask n out) s = .next t ∧ exec (.process c' mask' n out') s' = .next t'
      ∧ (((t.cluster c.toNat).voice l).osc.map fun o => (o.phase, o.omask))
          = (((t'.cluster c'.toNat).voice l').osc.map fun o => (o.phase, o.omask))
      ∧ ∀ i ch, i < n.toNat → ch < 2 → ∃ x x',
          t.outMem.lookup (out.toNat + i * s.cfg.e + 2 * l + ch) = some x
          ∧ t'.outMem.lookup (out'.toNat + i * s.cfg.e + 2 * l' + ch) = some x' ∧ sameF32 x x'

end Statements
end

