-- ==== Sys2Proof/Laws/Encoding.lean ====
section
/-! SUPPORT. The four fields of a header word (`30_encoding.md` R101) and the header put together from them. -/

namespace Sys2Proof

/-- A header as a number. -/
theorem header_toNat (opc c lm aux : Field) :
    (header opc c lm aux).toNat = opc.toNat * 2 ^ 24 + c.toNat * 2 ^ 16 + lm.toNat * 2 ^ 8 + aux.toNat := by
  have h1 := aux.isLt
  have h2 := lm.isLt
  have h3 := c.isLt
  simp only [header, BitVec.toNat_append]
  rw [← Nat.shiftLeft_add_eq_or_of_lt h3, ← Nat.shiftLeft_add_eq_or_of_lt h2,
    ← Nat.shiftLeft_add_eq_or_of_lt h1]
  simp only [Nat.shiftLeft_eq]
  omega

@[simp] theorem header_opc (opc c lm aux : Field) : (header opc c lm aux).opc = opc := by
  apply BitVec.eq_of_toNat_eq
  simp only [Word.opc, BitVec.extractLsb'_toNat, header_toNat, Nat.shiftRight_eq_div_pow]
  omega

@[simp] theorem header_cField (opc c lm aux : Field) : (header opc c lm aux).cField = c := by
  apply BitVec.eq_of_toNat_eq
  simp only [Word.cField, BitVec.extractLsb'_toNat, header_toNat, Nat.shiftRight_eq_div_pow]
  omega

@[simp] theorem header_lmField (opc c lm aux : Field) : (header opc c lm aux).lmField = lm := by
  apply BitVec.eq_of_toNat_eq
  simp only [Word.lmField, BitVec.extractLsb'_toNat, header_toNat, Nat.shiftRight_eq_div_pow]
  omega

@[simp] theorem header_auxField (opc c lm aux : Field) : (header opc c lm aux).auxField = aux := by
  apply BitVec.eq_of_toNat_eq
  simp only [Word.auxField, BitVec.extractLsb'_toNat, header_toNat, Nat.shiftRight_eq_div_pow]
  omega

/-- A word is the header of its own fields. -/
theorem header_fields (w : Word) : header w.opc w.cField w.lmField w.auxField = w := by
  apply BitVec.eq_of_toNat_eq
  have := w.isLt
  simp only [header_toNat, Word.opc, Word.cField, Word.lmField, Word.auxField, BitVec.extractLsb'_toNat,
    Nat.shiftRight_eq_div_pow]
  omega

/-- Masking a header masks its fields. -/
theorem header_and (a b c d a' b' c' d' : Field) :
    header a b c d &&& header a' b' c' d' = header (a &&& a') (b &&& b') (c &&& c') (d &&& d') := by
  apply BitVec.eq_of_getLsbD_eq
  intro i hi
  simp only [header, BitVec.getLsbD_and, BitVec.getLsbD_append]
  repeat' split
  all_goals rfl

/-- Headers are equal when their fields are. -/
theorem header_inj (a b c d a' b' c' d' : Field) :
    header a b c d = header a' b' c' d' ↔ a = a' ∧ b = b' ∧ c = c' ∧ d = d' := by
  constructor
  · intro h
    exact ⟨by simpa using congrArg Word.opc h, by simpa using congrArg Word.cField h,
      by simpa using congrArg Word.lmField h, by simpa using congrArg Word.auxField h⟩
  · rintro ⟨rfl, rfl, rfl, rfl⟩; rfl

end Sys2Proof
end

