-- ==== Sys2Proof/Laws/Memory.lean ====
section
/-! SUPPORT. The laws of a memory (`20_memory.md` R70, R75): a read after a write, a write elsewhere, the canonical form. -/

namespace Sys2Proof.Machine

/-- What a read gives after one write: the value written there, the old contents elsewhere. -/
theorem Memory.lookup_write (m : Memory) (a b : Nat) (x : F32) :
    (m.write a x).lookup b = if b = a then some x else m.lookup b := by
  induction m with
  | nil => simp [Memory.write, Memory.lookup, eq_comm]
  | cons p rest ih =>
    obtain ⟨c, y⟩ := p
    simp only [Memory.write]
    split
    · simp [Memory.lookup, eq_comm]
    · split
      · rename_i h; subst h
        by_cases hb : b = a
        · simp [Memory.lookup, hb]
        · simp [Memory.lookup, hb, Ne.symm hb]
      · simp only [Memory.lookup, ih]
        split <;> split <;> simp_all

/-- What a read gives after a run of writes from address a upward. -/
theorem Memory.lookup_writeList (xs : List F32) (m : Memory) (a b : Nat) :
    (m.writeList a xs).lookup b = if a ≤ b ∧ b < a + xs.length then xs[b - a]? else m.lookup b := by
  induction xs generalizing m a with
  | nil => simp [Memory.writeList]
  | cons x xs ih =>
    simp only [Memory.writeList, ih, Memory.lookup_write, List.length_cons]
    by_cases h1 : b = a
    · subst h1; simp
    · by_cases h2 : a + 1 ≤ b ∧ b < a + 1 + xs.length
      · rw [if_pos h2, if_pos (by omega)]
        obtain ⟨d, hd⟩ : ∃ d, b - a = d + 1 := ⟨b - a - 1, by omega⟩
        rw [hd, show b - (a + 1) = d by omega, List.getElem?_cons_succ]
      · rw [if_neg h2, if_neg h1, if_neg (by omega)]

/-- Every address of a written memory was there before or is the one written. -/
theorem Memory.all_write (m : Memory) (a : Nat) (x : F32) (p : Nat × F32 → Bool) (h : m.all p = true)
    (hx : p (a, x) = true) :
    (m.write a x).all p = true := by
  induction m with
  | nil => simpa [Memory.write] using hx
  | cons q rest ih =>
    obtain ⟨c, y⟩ := q
    simp only [List.all_cons, Bool.and_eq_true] at h
    simp only [Memory.write]
    split
    · simp [hx, h]
    · split
      · simp [hx, h]
      · simp [h, ih h.2]

/-- A write inside the space keeps the canonical form. -/
theorem Memory.write_wf (size : Nat) (m : Memory) (a : Nat) (x : F32) (h : m.wf size = true) (ha : a < size) :
    (m.write a x).wf size = true := by
  induction m with
  | nil => simp [Memory.write, Memory.wf, ha]
  | cons q rest ih =>
    obtain ⟨c, y⟩ := q
    simp only [Memory.wf, Bool.and_eq_true, decide_eq_true_eq] at h
    obtain ⟨⟨hc, hall⟩, hrest⟩ := h
    simp only [Memory.write]
    split
    · rename_i hlt
      simp only [Memory.wf, Bool.and_eq_true, decide_eq_true_eq, List.all_cons]
      refine ⟨⟨ha, hlt, ?_⟩, ⟨hc, hall⟩, hrest⟩
      rw [List.all_eq_true] at hall ⊢
      intro p hp
      have := hall p hp
      simp only [decide_eq_true_eq] at this ⊢
      omega
    · split
      · rename_i hge heq; subst heq
        simp [Memory.wf, ha, hrest, hall]
      · rename_i hge hne
        simp only [Memory.wf, Bool.and_eq_true, decide_eq_true_eq]
        exact ⟨⟨hc, Memory.all_write _ _ _ _ hall (by simp; omega)⟩, ih hrest⟩

/-- A run of writes inside the space keeps the canonical form. -/
theorem Memory.writeList_wf (size : Nat) (xs : List F32) (m : Memory) (a : Nat) (h : m.wf size = true)
    (ha : a + xs.length ≤ size) : (m.writeList a xs).wf size = true := by
  induction xs generalizing m a with
  | nil => simpa [Memory.writeList] using h
  | cons x xs ih =>
    simp only [List.length_cons] at ha
    exact ih _ _ (Memory.write_wf _ _ _ _ h (by omega)) (by omega)

/-- The memories of a block after power-on have the canonical form. -/
theorem powerOn_memories_wf (k : Config) :
    (State.powerOn k).importMem.wf k.importSize = true ∧ (State.powerOn k).outMem.wf k.outSize = true :=
  ⟨rfl, rfl⟩

end Sys2Proof.Machine
end

