-- ==== Sys2Proof/Laws/State.lean ====
section
/-! SUPPORT. One lemma for each field of the state after each of its updates, and the fields of an answer. -/

namespace Sys2Proof.Machine

@[simp] theorem State.setCluster_cfg (s : State) (c : Nat) (cl : Cluster) : (s.setCluster c cl).cfg = s.cfg := rfl
@[simp] theorem State.setCluster_initialized (s : State) (c : Nat) (cl : Cluster) : (s.setCluster c cl).initialized = s.initialized := rfl
@[simp] theorem State.setCluster_sampleRate (s : State) (c : Nat) (cl : Cluster) : (s.setCluster c cl).sampleRate = s.sampleRate := rfl
@[simp] theorem State.setCluster_maxBlock (s : State) (c : Nat) (cl : Cluster) : (s.setCluster c cl).maxBlock = s.maxBlock := rfl
@[simp] theorem State.setCluster_numClusters (s : State) (c : Nat) (cl : Cluster) : (s.setCluster c cl).numClusters = s.numClusters := rfl
@[simp] theorem State.setCluster_activeBank (s : State) (c : Nat) (cl : Cluster) : (s.setCluster c cl).activeBank = s.activeBank := rfl
@[simp] theorem State.setCluster_errstat (s : State) (c : Nat) (cl : Cluster) : (s.setCluster c cl).errstat = s.errstat := rfl
@[simp] theorem State.setCluster_clusters (s : State) (c : Nat) (cl : Cluster) : (s.setCluster c cl).clusters = s.clusters.set c cl := rfl
@[simp] theorem State.setCluster_banks (s : State) (c : Nat) (cl : Cluster) : (s.setCluster c cl).banks = s.banks := rfl
@[simp] theorem State.setCluster_importMem (s : State) (c : Nat) (cl : Cluster) : (s.setCluster c cl).importMem = s.importMem := rfl
@[simp] theorem State.setCluster_outMem (s : State) (c : Nat) (cl : Cluster) : (s.setCluster c cl).outMem = s.outMem := rfl
@[simp] theorem State.setCluster_cmdPort (s : State) (c : Nat) (cl : Cluster) : (s.setCluster c cl).cmdPort = s.cmdPort := rfl
@[simp] theorem State.setCluster_rspPort (s : State) (c : Nat) (cl : Cluster) : (s.setCluster c cl).rspPort = s.rspPort := rfl
@[simp] theorem State.setCluster_draws (s : State) (c : Nat) (cl : Cluster) : (s.setCluster c cl).draws = s.draws := rfl
@[simp] theorem State.setCluster_nanSeed (s : State) (c : Nat) (cl : Cluster) : (s.setCluster c cl).nanSeed = s.nanSeed := rfl

@[simp] theorem State.nextNan_cfg (s : State) : s.nextNan.cfg = s.cfg := rfl
@[simp] theorem State.nextNan_initialized (s : State) : s.nextNan.initialized = s.initialized := rfl
@[simp] theorem State.nextNan_sampleRate (s : State) : s.nextNan.sampleRate = s.sampleRate := rfl
@[simp] theorem State.nextNan_maxBlock (s : State) : s.nextNan.maxBlock = s.maxBlock := rfl
@[simp] theorem State.nextNan_numClusters (s : State) : s.nextNan.numClusters = s.numClusters := rfl
@[simp] theorem State.nextNan_activeBank (s : State) : s.nextNan.activeBank = s.activeBank := rfl
@[simp] theorem State.nextNan_errstat (s : State) : s.nextNan.errstat = s.errstat := rfl
@[simp] theorem State.nextNan_clusters (s : State) : s.nextNan.clusters = s.clusters := rfl
@[simp] theorem State.nextNan_banks (s : State) : s.nextNan.banks = s.banks := rfl
@[simp] theorem State.nextNan_importMem (s : State) : s.nextNan.importMem = s.importMem := rfl
@[simp] theorem State.nextNan_outMem (s : State) : s.nextNan.outMem = s.outMem := rfl
@[simp] theorem State.nextNan_cmdPort (s : State) : s.nextNan.cmdPort = s.cmdPort := rfl
@[simp] theorem State.nextNan_rspPort (s : State) : s.nextNan.rspPort = s.rspPort := rfl
@[simp] theorem State.nextNan_draws (s : State) : s.nextNan.draws = s.draws := rfl
@[simp] theorem State.nextNan_nanSeed (s : State) : s.nextNan.nanSeed = s.nanSeed + 1 := rfl

@[simp] theorem State.take_cfg (s : State) (len : Nat) : (s.take len).cfg = s.cfg := rfl
@[simp] theorem State.take_initialized (s : State) (len : Nat) : (s.take len).initialized = s.initialized := rfl
@[simp] theorem State.take_sampleRate (s : State) (len : Nat) : (s.take len).sampleRate = s.sampleRate := rfl
@[simp] theorem State.take_maxBlock (s : State) (len : Nat) : (s.take len).maxBlock = s.maxBlock := rfl
@[simp] theorem State.take_numClusters (s : State) (len : Nat) : (s.take len).numClusters = s.numClusters := rfl
@[simp] theorem State.take_activeBank (s : State) (len : Nat) : (s.take len).activeBank = s.activeBank := rfl
@[simp] theorem State.take_errstat (s : State) (len : Nat) : (s.take len).errstat = s.errstat := rfl
@[simp] theorem State.take_clusters (s : State) (len : Nat) : (s.take len).clusters = s.clusters := rfl
@[simp] theorem State.take_banks (s : State) (len : Nat) : (s.take len).banks = s.banks := rfl
@[simp] theorem State.take_importMem (s : State) (len : Nat) : (s.take len).importMem = s.importMem := rfl
@[simp] theorem State.take_outMem (s : State) (len : Nat) : (s.take len).outMem = s.outMem := rfl
@[simp] theorem State.take_cmdPort (s : State) (len : Nat) : (s.take len).cmdPort = s.cmdPort.drop len := rfl
@[simp] theorem State.take_rspPort (s : State) (len : Nat) : (s.take len).rspPort = s.rspPort := rfl
@[simp] theorem State.take_draws (s : State) (len : Nat) : (s.take len).draws = s.draws := rfl
@[simp] theorem State.take_nanSeed (s : State) (len : Nat) : (s.take len).nanSeed = s.nanSeed := rfl

@[simp] theorem raised_cfg (s : State) (e : Err) (info : Word) : (raised s e info).cfg = s.cfg := rfl
@[simp] theorem raised_initialized (s : State) (e : Err) (info : Word) : (raised s e info).initialized = s.initialized := rfl
@[simp] theorem raised_sampleRate (s : State) (e : Err) (info : Word) : (raised s e info).sampleRate = s.sampleRate := rfl
@[simp] theorem raised_maxBlock (s : State) (e : Err) (info : Word) : (raised s e info).maxBlock = s.maxBlock := rfl
@[simp] theorem raised_numClusters (s : State) (e : Err) (info : Word) : (raised s e info).numClusters = s.numClusters := rfl
@[simp] theorem raised_activeBank (s : State) (e : Err) (info : Word) : (raised s e info).activeBank = s.activeBank := rfl
@[simp] theorem raised_errstat (s : State) (e : Err) (info : Word) : (raised s e info).errstat = errstatSet s.errstat e := rfl
@[simp] theorem raised_clusters (s : State) (e : Err) (info : Word) : (raised s e info).clusters = s.clusters := rfl
@[simp] theorem raised_banks (s : State) (e : Err) (info : Word) : (raised s e info).banks = s.banks := rfl
@[simp] theorem raised_importMem (s : State) (e : Err) (info : Word) : (raised s e info).importMem = s.importMem := rfl
@[simp] theorem raised_outMem (s : State) (e : Err) (info : Word) : (raised s e info).outMem = s.outMem := rfl
@[simp] theorem raised_cmdPort (s : State) (e : Err) (info : Word) : (raised s e info).cmdPort = s.cmdPort := rfl
@[simp] theorem raised_rspPort (s : State) (e : Err) (info : Word) : (raised s e info).rspPort = s.rspPort ++ [rsp0 (errCode e), info] := rfl
@[simp] theorem raised_draws (s : State) (e : Err) (info : Word) : (raised s e info).draws = s.draws := rfl
@[simp] theorem raised_nanSeed (s : State) (e : Err) (info : Word) : (raised s e info).nanSeed = s.nanSeed := rfl

@[simp] theorem hostPowerOn_cfg (s : State) : (hostPowerOn s).cfg = s.cfg := rfl
@[simp] theorem hostPowerOn_initialized (s : State) : (hostPowerOn s).initialized = false := rfl
@[simp] theorem hostPowerOn_sampleRate (s : State) : (hostPowerOn s).sampleRate = F32.zero := rfl
@[simp] theorem hostPowerOn_maxBlock (s : State) : (hostPowerOn s).maxBlock = 0 := rfl
@[simp] theorem hostPowerOn_numClusters (s : State) : (hostPowerOn s).numClusters = 0 := rfl
@[simp] theorem hostPowerOn_activeBank (s : State) : (hostPowerOn s).activeBank = ⟨false, 0⟩ := rfl
@[simp] theorem hostPowerOn_errstat (s : State) : (hostPowerOn s).errstat = 0 := rfl
@[simp] theorem hostPowerOn_clusters (s : State) : (hostPowerOn s).clusters = [] := rfl
@[simp] theorem hostPowerOn_banks (s : State) : (hostPowerOn s).banks = List.replicate s.cfg.numBankSlots ⟨false, 0, []⟩ := rfl
@[simp] theorem hostPowerOn_importMem (s : State) : (hostPowerOn s).importMem = [] := rfl
@[simp] theorem hostPowerOn_outMem (s : State) : (hostPowerOn s).outMem = [] := rfl
@[simp] theorem hostPowerOn_cmdPort (s : State) : (hostPowerOn s).cmdPort = [] := rfl
@[simp] theorem hostPowerOn_rspPort (s : State) : (hostPowerOn s).rspPort = [] := rfl
@[simp] theorem hostPowerOn_draws (s : State) : (hostPowerOn s).draws = s.draws := rfl
@[simp] theorem hostPowerOn_nanSeed (s : State) : (hostPowerOn s).nanSeed = s.nanSeed := rfl

/-- The one answer of a completed command (`30_encoding.md` R108). -/
theorem respond_eq (s : State) (payload : Word) :
    respond s payload = .next { s with rspPort := s.rspPort ++ [rsp0 0, payload] } := rfl

/-- The one answer of a failed command (`60_exceptions.md` R305). -/
theorem raise_eq (s : State) (e : Err) (info : Word) : raise s e info = .next (raised s e info) := rfl

end Sys2Proof.Machine
end

