-- ==== Sys2Proof/Laws/Ops.lean ====
section
/-! SUPPORT. What the shared operations can do, said once: checks and answers, visits with an accumulator, the cells of a smoother, the sum of a tree, the clusters of the pool, the bytes of a word. -/

namespace Sys2Proof.Machine

/-- A list of checks answers the first failing error, or runs the body when none fails. -/
theorem checked_cases (s : State) (checks : List Check) (body : Host.Outcome State Fault Refusal) :
    (checked s checks body = body ∧ ∀ ch ∈ checks, ch.1 = false)
    ∨ ∃ e info, (true, e, info) ∈ checks ∧ checked s checks body = .next (raised s e info) := by
  induction checks with
  | nil => exact .inl ⟨rfl, by simp⟩
  | cons ch rest ih =>
    obtain ⟨fails, e, info⟩ := ch
    cases fails with
    | true => exact .inr ⟨e, info, by simp, rfl⟩
    | false =>
      rcases ih with ⟨h1, h2⟩ | ⟨e', info', h1, h2⟩
      · exact .inl ⟨by simpa [checked] using h1, by simpa using h2⟩
      · exact .inr ⟨e', info', by simp [h1], by simpa [checked] using h2⟩

/-- A check that fails, with every earlier check passed, is the answer. -/
theorem checked_fail (s : State) (pre post : List Check) (e : Err) (info : Word)
    (body : Host.Outcome State Fault Refusal) (h : ∀ ch ∈ pre, ch.1 = false) :
    checked s (pre ++ (true, e, info) :: post) body = .next (raised s e info) := by
  induction pre with
  | nil => rfl
  | cons ch rest ih =>
    obtain ⟨fails, e', info'⟩ := ch
    obtain rfl : fails = false := h (fails, e', info') (by simp)
    simpa [checked] using ih fun c hc => h c (by simp [hc])

/-- Checks that all pass leave the body. -/
theorem checked_pass (s : State) (checks : List Check) (body : Host.Outcome State Fault Refusal)
    (h : ∀ ch ∈ checks, ch.1 = false) : checked s checks body = body := by
  induction checks with
  | nil => rfl
  | cons ch rest ih =>
    obtain ⟨fails, e, info⟩ := ch
    obtain rfl : fails = false := h (fails, e, info) (by simp)
    simpa [checked] using ih fun c hc => h c (by simp [hc])

/-- A visit keeps the number of elements. -/
@[simp] theorem mapAcc_length {α σ : Type} (f : Nat → α → σ → α × σ) (i : Nat) (xs : List α) (acc : σ) :
    (mapAcc f i xs acc).1.length = xs.length := by
  induction xs generalizing i acc with
  | nil => rfl
  | cons x xs ih => simp [mapAcc, ih]

/-- Element j of a visit, with the accumulator that the earlier elements leave. -/
theorem mapAcc_getElem? {α σ : Type} (f : Nat → α → σ → α × σ) (i : Nat) (xs : List α) (acc : σ) (j : Nat) :
    (mapAcc f i xs acc).1[j]? = (xs[j]?).map fun x => (f (i + j) x (mapAcc f i (xs.take j) acc).2).1 := by
  induction xs generalizing i acc j with
  | nil => simp [mapAcc]
  | cons x xs ih =>
    cases j with
    | zero => simp [mapAcc]
    | succ j => simp [mapAcc, ih, show i + 1 + j = i + (j + 1) by omega]

/-- The accumulator of a visit that adds to a count. -/
theorem mapAcc_count {α : Type} (f : Nat → α → Nat → α × Nat) (cnt : Nat → α → Nat)
    (h : ∀ i x n, (f i x n).2 = n + cnt i x) (i : Nat) (xs : List α) (n : Nat) :
    (mapAcc f i xs n).2 = n + (xs.mapIdx fun j x => cnt (i + j) x).sum := by
  induction xs generalizing i n with
  | nil => simp [mapAcc]
  | cons x xs ih =>
    simp only [mapAcc, ih, h, List.mapIdx_cons, List.sum_cons, Nat.add_zero, Nat.add_assoc]
    simp [Nat.add_comm]

/-- The cell of a snapped linear smoother (`40_smoothers.md` R131). -/
theorem linSnap_getElem? (w : Lin) (target : Nat → F32) (on : Nat → Bool) (e : Nat) :
    (linSnap w target on)[e]? = (w[e]?).map fun x => if on e then ⟨target e, F32.zero⟩ else x := by
  simp [linSnap, List.getElem?_mapIdx]

/-- The cell of a retargeted linear smoother (`40_smoothers.md` R132). -/
theorem linSet_getElem? (site : Site) (w : Lin) (target : Nat → F32) (t : F32) (on : Nat → Bool) (e : Nat) :
    (linSet site w target t on)[e]? = (w[e]?).map fun x =>
      if on e then ⟨x.cur, fmul (0 :: e :: site) (fsub (1 :: e :: site) (target e) x.cur) t⟩ else x := by
  simp [linSet, List.getElem?_mapIdx]

/-- The cell of a ticked linear smoother (`40_smoothers.md` R133). -/
theorem linTick1_getElem? (site : Site) (w : Lin) (e : Nat) :
    (linTick1 site w)[e]? = (w[e]?).map fun x => ⟨fadd (e :: site) x.cur x.inc, x.inc⟩ := by
  simp [linTick1, List.getElem?_mapIdx]

/-- The cell of a linear smoother ticked by n samples (`40_smoothers.md` R134). -/
theorem linTickN_getElem? (site : Site) (w : Lin) (n e : Nat) :
    (linTickN site w n)[e]? = (w[e]?).map fun x =>
      ⟨fadd (0 :: e :: site) x.cur (fmul (1 :: e :: site) x.inc (u2f n)), x.inc⟩ := by
  simp [linTickN, List.getElem?_mapIdx]

/-- The cell of a snapped logarithmic smoother (`40_smoothers.md` R135). -/
theorem logSnap_getElem? (w : Log) (target : Nat → F32) (on : Nat → Bool) (e : Nat) :
    (logSnap w target on)[e]? = (w[e]?).map fun x => if on e then ⟨target e, F32.one⟩ else x := by
  simp [logSnap, List.getElem?_mapIdx]

/-- The cell of a retargeted logarithmic smoother (`40_smoothers.md` R136). -/
theorem logSet_getElem? (w : Log) (target : Nat → F32) (t : F32) (on : Nat → Bool) (e : Nat) :
    (logSet w target t on)[e]? = (w[e]?).map fun x => if on e then logSetCell x (target e) t else x := by
  simp [logSet, List.getElem?_mapIdx]

/-- The cell of a ticked logarithmic smoother (`40_smoothers.md` R137). -/
theorem logTick1_getElem? (site : Site) (w : Log) (e : Nat) :
    (logTick1 site w)[e]? = (w[e]?).map fun x => ⟨fmul (e :: site) x.cur x.fac, x.fac⟩ := by
  simp [logTick1, List.getElem?_mapIdx]

/-- Smoother operations keep the number of cells. -/
@[simp] theorem linSnap_length (c : Lin) (target : Nat → F32) (on : Nat → Bool) :
    (linSnap c target on).length = c.length := by simp [linSnap]
@[simp] theorem linSet_length (site : Site) (c : Lin) (target : Nat → F32) (t : F32) (on : Nat → Bool) :
    (linSet site c target t on).length = c.length := by simp [linSet]
@[simp] theorem linTick1_length (site : Site) (c : Lin) : (linTick1 site c).length = c.length := by simp [linTick1]
@[simp] theorem linTickN_length (site : Site) (c : Lin) (n : Nat) : (linTickN site c n).length = c.length := by
  simp [linTickN]
@[simp] theorem logSnap_length (c : Log) (target : Nat → F32) (on : Nat → Bool) :
    (logSnap c target on).length = c.length := by simp [logSnap]
@[simp] theorem logSet_length (c : Log) (target : Nat → F32) (t : F32) (on : Nat → Bool) :
    (logSet c target t on).length = c.length := by simp [logSet]
@[simp] theorem logTick1_length (site : Site) (c : Log) : (logTick1 site c).length = c.length := by simp [logTick1]

/-- A sum in the order of a tree is one `fadd` for each node over the channel's elements (`43_unison_voice.md`
R213). -/
theorem sumTree_treeSum (site : Site) (acc : List F32) (ch : Nat) (t : SumTree) :
    TreeSum (fun j => acc.getD (2 * j + ch) F32.zero) t (sumTree site acc ch t) := by
  induction t generalizing site with
  | leaf j => rfl
  | node a b iha ihb => exact ⟨_, _, site, iha (0 :: site), ihb (1 :: site), rfl⟩

/-- `EXP2` reads no payload (`70_reset_and_hazards.md` R353). -/
theorem exp2_sameF32 (k : Config) (x y : F32) (h : sameF32 x y) : exp2 k x = exp2 k y := by
  rcases h with rfl | ⟨hx, hy⟩
  · rfl
  · have number : ∀ z : F32, isNaN z = true → isFinite z = false ∧ z ≠ F32.zero := by
      intro z hz
      refine ⟨?_, by rintro rfl; revert hz; decide⟩
      simp only [isNaN, Bool.and_eq_true, beq_iff_eq] at hz
      simp [isFinite, hz.1]
    simp [exp2, exactExponent, payloadFree, number x hx, number y hy, hx, hy]

/-- `POW` reads no payload (`70_reset_and_hazards.md` R353). -/
theorem pow_sameF32 (b b' t t' : F32) (hb : sameF32 b b') (ht : sameF32 t t') : sameF32 (pow b t) (pow b' t') := by
  have number : ∀ z : F32, isNaN z = true → isFinite z = false ∧ isPosFinite z = false ∧ z ≠ F32.zero ∧ z ≠ F32.one := by
    intro z hz
    have hexp : isFinite z = false := by
      simp only [isNaN, Bool.and_eq_true, beq_iff_eq] at hz
      simp [isFinite, hz.1]
    exact ⟨hexp, by simp [isPosFinite, flt, hz], by rintro rfl; revert hz; decide, by rintro rfl; revert hz; decide⟩
  rcases hb with rfl | ⟨hb, hb'⟩ <;> rcases ht with rfl | ⟨ht, ht'⟩
  · exact .inl rfl
  · simp [pow, sameF32, payloadFree, number t ht, number t' ht', ht, ht']
  · by_cases h1 : t = F32.one
    · simp_all [pow, sameF32]
    · simp [pow, sameF32, payloadFree, number b hb, number b' hb', hb, hb', h1]
  · simp [pow, sameF32, payloadFree, number b hb, number b' hb', number t ht, number t' ht', hb, hb', ht, ht']

/-- No claim tells a float from itself. -/
@[simp] theorem sameF32_refl (a : F32) : sameF32 a a := .inl rfl

/-- No claim tells a linear cell from itself. -/
@[simp] theorem sameLinCell_refl (a : LinCell) : sameLinCell a a := by simp [sameLinCell]

/-- No claim tells a logarithmic cell from itself. -/
@[simp] theorem sameLogCell_refl (a : LogCell) : sameLogCell a a := by simp [sameLogCell]

/-- No claim tells an oscillator from itself. -/
@[simp] theorem sameOsc_refl (a : Osc) : sameOsc a a := by simp [sameOsc, List.forall₂_same]

/-- Equal lane states are the same NaN for NaN. -/
theorem sameLane_of_eq {a b : LaneState} (h : a = b) : sameLane a b := by
  subst h
  simp [sameLane, List.forall₂_same]

/-- The four transport bytes of a word carry it in either order (`20_memory.md` R76). -/
theorem wordsOfBytes_wordBytes (order : ByteOrder) (w : Word) (rest : List (BitVec 8)) :
    wordsOfBytes order (wordBytes order w ++ rest) = w :: wordsOfBytes order rest := by
  have bytes : header (w.extractLsb' 24 8) (w.extractLsb' 16 8) (w.extractLsb' 8 8) (w.extractLsb' 0 8) = w := by
    apply BitVec.eq_of_toNat_eq
    simp only [header_toNat, BitVec.extractLsb'_toNat, Nat.shiftRight_eq_div_pow]
    omega
  cases order <;> simp [wordBytes, wordsOfBytes, wordOfBytes, bytes]

/-- Cluster c of a pool with one cluster replaced. -/
theorem State.cluster_setCluster (s : State) (c c' : Nat) (cl : Cluster) (h : c < s.clusters.length) :
    (s.setCluster c cl).cluster c' = if c' = c then cl else s.cluster c' := by
  unfold State.cluster State.setCluster
  by_cases hc : c' = c
  · subst hc; simp [List.getD, h]
  · simp [List.getD, Ne.symm hc, hc]

/-- A bit of a mask with one bit set or cleared; masks have 8 bits. -/
theorem maskBit_setMaskBit (m : Mask) (l j : Nat) (b : Bool) (hl : l < 8) :
    maskBit (setMaskBit m l b) j = if j = l then b else maskBit m j := by
  have hbit : (BitVec.ofNat 8 (2 ^ l)).getLsbD j = decide (j = l) := by
    rw [BitVec.getLsbD_ofNat, Nat.testBit_two_pow]
    by_cases h : l = j
    · subst h; simp [hl]
    · simp [h, Ne.symm h]
  unfold maskBit setMaskBit
  cases b <;> by_cases h : j = l <;> simp_all
  intro h8
  by_contra hge
  simp [BitVec.getLsbD_of_ge _ _ (Nat.le_of_not_lt hge)] at h8

end Sys2Proof.Machine
end

