-- ==== Sys2Proof/Laws/PerInstr.lean ====
section
/-! SUPPORT. A property of every instruction as syntax: its encoding is a row of the opcode map (`30_encoding.md` R106). -/

open Sys2Proof

/-- The header that `encode` writes selects the row of its opcode, with every must-be-zero bit clear, and the number
of words is the row's. -/
def Sys2Proof.Laws.Encoding.Statement (i : Instr) : Prop :=
  ∃ w0 rest row, encode i = w0 :: rest ∧ opcodeRow w0.opc = some row ∧ w0 &&& row.mask = row.pattern
    ∧ rest.length + 1 = row.words

/-- The masks of the opcode map, as headers. -/
theorem Sys2Proof.Laws.encoding_of_fields (opc c lm aux mo mc mm ma po pc pm pa : Field) (rest : List Word)
    (row : OpcodeRow) (hrow : opcodeRow opc = some row) (hm : row.mask = header mo mc mm ma)
    (hp : row.pattern = header po pc pm pa) (hlen : rest.length + 1 = row.words)
    (h : opc &&& mo = po ∧ c &&& mc = pc ∧ lm &&& mm = pm ∧ aux &&& ma = pa) (i : Instr)
    (henc : encode i = header opc c lm aux :: rest) : Sys2Proof.Laws.Encoding.Statement i :=
  ⟨_, rest, row, henc, by simpa using hrow, by rw [hm, hp, header_and, header_inj]; exact h, hlen⟩

theorem Sys2Proof.Laws.Encoding.nop : Sys2Proof.Laws.Encoding.Statement .nop :=
  Sys2Proof.Laws.encoding_of_fields 0 0 0 0 0xFF 0xFF 0xFF 0xFF 0 0 0 0 _ _ rfl rfl rfl rfl (by decide) _ rfl

theorem Sys2Proof.Laws.Encoding.init (rate : F32) (maxBlock clusters : Word) :
    Sys2Proof.Laws.Encoding.Statement (.init rate maxBlock clusters) :=
  Sys2Proof.Laws.encoding_of_fields 1 0 0 0 0xFF 0xFF 0xFF 0xFF 1 0 0 0 _ _ rfl rfl rfl rfl (by decide) _ rfl

theorem Sys2Proof.Laws.Encoding.process (c : Field) (mask : Mask) (n out : Word) :
    Sys2Proof.Laws.Encoding.Statement (.process c mask n out) :=
  Sys2Proof.Laws.encoding_of_fields 2 c mask 0 0xFF 0 0 0xFF 2 0 0 0 _ _ rfl rfl rfl rfl (by simp) _ rfl

theorem Sys2Proof.Laws.Encoding.setp (c : Field) (mask : Mask) (id : Field) (value : F32) :
    Sys2Proof.Laws.Encoding.Statement (.setp c mask id value) :=
  Sys2Proof.Laws.encoding_of_fields 3 c mask id 0xFF 0 0 0 3 0 0 0 _ _ rfl rfl rfl rfl (by simp) _ rfl

theorem Sys2Proof.Laws.Encoding.setps (c : Field) (mask : Mask) (id : Field) (value : F32) (samples : Word) :
    Sys2Proof.Laws.Encoding.Statement (.setps c mask id value samples) :=
  Sys2Proof.Laws.encoding_of_fields 4 c mask id 0xFF 0 0 0 4 0 0 0 _ _ rfl rfl rfl rfl (by simp) _ rfl

theorem Sys2Proof.Laws.Encoding.von (c lane : Field) (note : BitVec 7) :
    Sys2Proof.Laws.Encoding.Statement (.von c lane note) := by
  refine Sys2Proof.Laws.encoding_of_fields 5 c lane (note.setWidth 8) 0xFF 0 0 0x80 5 0 0 0 _ _ rfl rfl rfl rfl
    ⟨rfl, by simp, by simp, ?_⟩ _ rfl
  revert note
  decide

theorem Sys2Proof.Laws.Encoding.voff (c lane : Field) : Sys2Proof.Laws.Encoding.Statement (.voff c lane) :=
  Sys2Proof.Laws.encoding_of_fields 6 c lane 0 0xFF 0 0 0xFF 6 0 0 0 _ _ rfl rfl rfl rfl (by simp) _ rfl

theorem Sys2Proof.Laws.Encoding.move (c1 l1 c2 l2 : Field) :
    Sys2Proof.Laws.Encoding.Statement (.move c1 l1 c2 l2) :=
  Sys2Proof.Laws.encoding_of_fields 7 c1 l1 0 0xFF 0 0 0xFF 7 0 0 0 _ _ rfl rfl rfl rfl (by simp) _ rfl

theorem Sys2Proof.Laws.Encoding.reset (c : Field) (mask : Mask) :
    Sys2Proof.Laws.Encoding.Statement (.reset c mask) :=
  Sys2Proof.Laws.encoding_of_fields 8 c mask 0 0xFF 0 0 0xFF 8 0 0 0 _ _ rfl rfl rfl rfl (by simp) _ rfl

theorem Sys2Proof.Laws.Encoding.replace (slot : Field) : Sys2Proof.Laws.Encoding.Statement (.replace slot) :=
  Sys2Proof.Laws.encoding_of_fields 9 0 0 slot 0xFF 0xFF 0xFF 0 9 0 0 0 _ _ rfl rfl rfl rfl (by simp) _ rfl

theorem Sys2Proof.Laws.Encoding.bload (slot : Field) (src count : Word) :
    Sys2Proof.Laws.Encoding.Statement (.bload slot src count) :=
  Sys2Proof.Laws.encoding_of_fields 10 0 0 slot 0xFF 0xFF 0xFF 0 10 0 0 0 _ _ rfl rfl rfl rfl (by simp) _ rfl

theorem Sys2Proof.Laws.Encoding.stat (reg c slot : Field) :
    Sys2Proof.Laws.Encoding.Statement (.stat reg c slot) :=
  Sys2Proof.Laws.encoding_of_fields 11 c slot reg 0xFF 0 0 0 11 0 0 0 _ _ rfl rfl rfl rfl (by simp) _ rfl
end

