-- ==== Sys2Proof/Tests/Slice0.lean ====
section
/-! SUPPORT. Tests: well-formedness, every constructor's words, one small step of every command with values of `95_test_vectors.md`, and for every statement with hypotheses a concrete state and operands that meet them. -/

namespace Sys2Proof.Tests
open Sys2Proof Sys2Proof.Machine

-- one test after another: a thread for each would wait for the kernel with its own stack
set_option Elab.async false

/-! ### Helpers -/

/-- The outcome is a next state. -/
def isNext : Host.Outcome State Fault Refusal → Bool
  | .next _ => true
  | _ => false

/-- The next state, or the reset state where there is none. -/
def after : Host.Outcome State Fault Refusal → State
  | .next t => t
  | _ => State.reset

theorem next_of {o : Host.Outcome State Fault Refusal} (h : isNext o = true) : o = .next (after o) := by
  cases o <;> simp_all [isNext, after]

/-- The two words a command answered. -/
def answer (o : Host.Outcome State Fault Refusal) : List Word := (after o).rspPort

/-- The frame `SINE8` (`95_test_vectors.md` 1.2). -/
def sine8 : List F32 :=
  [0, 0x3F3504F3, 0x3F800000, 0x3F3504F3, 0, 0xBF3504F3, 0xBF800000, 0xBF3504F3]

/-- The bank `B_SINE` (`95_test_vectors.md` 1.3). -/
def bSine : BankSlot := ⟨true, 1, List.replicate 8 0 ++ sine8 ++ sine8 ++ sine8⟩

/-- IMPORT holds `SINE8`, nothing is initialised. -/
def tImport : State := { State.reset with importMem := Memory.writeList [] 0 sine8 }

/-- Slot 1 holds `B_SINE` and is not active. -/
def tLoaded : State := { tImport with banks := [⟨false, 0, []⟩, bSine] }

/-- `SETUP(2, B_SINE)` (`95_test_vectors.md` 1.5). -/
def tBank : State :=
  { tLoaded with
    activeBank := ⟨true, 1⟩, initialized := true, sampleRate := 0x455C0000, maxBlock := 16, numClusters := 2
    clusters := List.replicate 2 (freshCluster Config.tiny) }

/-- A fresh cluster with one copy, level 1.0 and pan 0.5 in every lane. -/
def tCluster : Cluster :=
  { freshCluster Config.tiny with
    params := (((freshCluster Config.tiny).params.set 8 (List.replicate 4 ⟨0x3F800000, 0⟩)).set 5
      (List.replicate 4 ⟨0x3F800000, 0⟩)).set 7 (List.replicate 4 ⟨0x3F000000, 0⟩) }

/-- `tBank` with cluster 0 so set up. -/
def tReady : State := { tBank with clusters := [tCluster, freshCluster Config.tiny] }

/-- `tReady` with note 69 on in lane 0 of cluster 0. -/
def tVoice : State := { after (exec (.von 0 0 69) tReady) with rspPort := [] }

/-- `tVoice` with the voice moved to lane 1 of cluster 1. -/
def tMoved : State := { after (exec (.move 0 0 1 1) tVoice) with rspPort := [] }

/-- `tVoice` with a second voice in lane 1 of cluster 0. -/
def tTwo : State := { after (exec (.von 0 1 69) tVoice) with rspPort := [] }

/-- `CFG_TINY` with a table of 256 samples, whose phase fractions are exact. -/
def k8 : Config := { Config.tiny with numOctaves := 8, importSize := 256 }

/-- `CFG_TINY` with another summation order for each channel. -/
def kFold : Config := { Config.tiny with foldOrder := some (.node (.leaf 1) (.leaf 0), .node (.leaf 0) (.leaf 1)) }

/-- `CFG_TINY` without a legal lane width. -/
def tBadBuild : State := State.powerOn { Config.tiny with v := 3 }

/-! ### Well-formedness (`30_encoding.md` R103) -/

theorem test_wf_process : (Instr.process 0 0b11 8 0).wellFormed 2 = true
    ∧ (Instr.process 0 0b100 8 0).wellFormed 2 = false := by decide
theorem test_wf_setp : (Instr.setp 0 0b11 7 0).wellFormed 2 = true
    ∧ (Instr.setp 0 0b100 7 0).wellFormed 2 = false := by decide
theorem test_wf_setps : (Instr.setps 0 0b11 7 0 4).wellFormed 2 = true
    ∧ (Instr.setps 0 0b1000 7 0 4).wellFormed 2 = false := by decide
theorem test_wf_reset : (Instr.reset 0 0b1111).wellFormed 4 = true
    ∧ (Instr.reset 0 0b10000).wellFormed 4 = false := by decide

/-! ### Decoding: words written out from the encoding of `30_encoding.md` R101 to R106, field by field -/

theorem test_decode_nop : decode 2 [0b00000000_00000000_00000000_00000000] = .instr .nop 1 := by decide
theorem test_decode_init :
    decode 2 [0b00000001_00000000_00000000_00000000, 0x473B8000, 512, 8] = .instr (.init 0x473B8000 512 8) 4 := by
  decide
theorem test_decode_process :
    decode 2 [0b00000010_00000101_00000011_00000000, 16, 7] = .instr (.process 5 3 16 7) 3 := by decide
theorem test_decode_setp :
    decode 2 [0b00000011_00000101_00000010_00000111, 0x3F000000] = .instr (.setp 5 2 7 0x3F000000) 2 := by decide
theorem test_decode_setps :
    decode 2 [0b00000100_00000101_00000001_11111111, 0x3F000000, 64] = .instr (.setps 5 1 255 0x3F000000 64) 3 := by
  decide
theorem test_decode_von : decode 2 [0b00000101_10000001_00000010_01111111] = .instr (.von 129 2 127) 1 := by decide
theorem test_decode_voff : decode 2 [0b00000110_10000001_11111111_00000000] = .instr (.voff 129 255) 1 := by decide
theorem test_decode_move :
    decode 2 [0b00000111_00000001_00000010_00000000, 0b00000000_00000011_00000100_00000000]
      = .instr (.move 1 2 3 4) 2 := by decide
theorem test_decode_reset : decode 2 [0b00001000_00000001_00000011_00000000] = .instr (.reset 1 3) 1 := by decide
theorem test_decode_replace : decode 2 [0b00001001_00000000_00000000_10000001] = .instr (.replace 129) 1 := by decide
theorem test_decode_bload :
    decode 2 [0b00001010_00000000_00000000_00000001, 3, 8] = .instr (.bload 1 3 8) 3 := by decide
theorem test_decode_stat : decode 2 [0b00001011_00000010_00000001_00001000] = .instr (.stat 8 2 1) 1 := by decide

/-- Illegal words: an unknown opcode, `aux[7]` of VON, a mask beyond V, a MOVE destination word (R110). -/
theorem test_decode_illegal :
    decode 2 [0x0C000000, 0] = .illegal 0x0C000000 1 ∧ decode 2 [0x05000080] = .illegal 0x05000080 1
    ∧ decode 2 [0x08000400] = .illegal 0x08000400 1 ∧ decode 2 [0x07000000, 1] = .illegal 0x07000000 2 := by decide

theorem test_decodeTableWord : decodeTableWord 64 0x3F000000_03000107 = some (.setp 0 1 7 0x3F000000)
    ∧ decodeTableWord 32 0x01000000 = some (.init 0 0 0) ∧ decodeTableWord 32 0x0C000000 = none := by decide

/-- A whole command run from the port, from reset. -/
theorem test_step_runs : answer (step (State.reset.withFetchWord 32 0x0B000006)) = [0, 0x02040203] := by
  decide +kernel

theorem test_step_illegal : answer (step (State.reset.withFetchWord 32 0xFF000001)) = [0x01000000, 0xFF000001]
    ∧ (after (step (State.reset.withFetchWord 32 0xFF000001))).errstat = 2 := by decide +kernel

/-! ### One step of every command -/

theorem test_nop : answer (exec .nop State.reset) = [0, 0] := by decide

theorem test_init : (after (exec (.init 0x473B8000 512 8) State.reset)).clusters.length = 8
    ∧ answer (exec (.init 0x473B8000 512 8) State.reset) = [0, 0] := by decide +kernel
/-- +inf is no sample rate. -/
theorem test_init_range : answer (exec (.init 0x7F800000 512 8) State.reset) = [0x07000000, 1] := by decide +kernel

theorem test_stat_active : answer (exec (.stat 4 0 0) tBank) = [0, 0x101] := by decide +kernel
theorem test_stat_lanes : answer (exec (.stat 7 0 0) tVoice) = [0, 1] := by decide +kernel

/-- T27. -/
theorem test_replace : answer (exec (.replace 1) tLoaded) = [0, 0]
    ∧ (after (exec (.replace 1) tLoaded)).activeBank = ⟨true, 1⟩ := by decide +kernel
theorem test_replace_invalid : answer (exec (.replace 0) tLoaded) = [0x06000000, 0] := by decide +kernel

/-- T26: `SINE8` builds `B_SINE`. -/
theorem test_bload : (after (exec (.bload 1 0 8) tImport)).bank 1 = bSine := by decide +kernel
theorem test_bload_format : answer (exec (.bload 1 0 12) tImport) = [0x05000000, 12] := by decide +kernel

/-- Pan 0.5 in lane 0 only. -/
theorem test_setp : (((after (exec (.setp 0 1 7 0x3F000000) tBank)).cluster 0).param 7).map (·.cur)
    = [0x3F000000, 0x3F000000, 0, 0] := by decide +kernel

/-- A ramp to 1.0 over 4 samples has the increment 0.25 (T3). -/
theorem test_setps : linPair (((after (exec (.setps 0 2 7 0x3F800000 4) tBank)).cluster 0).param 7) 1
    = (⟨0, 0x3E800000⟩, ⟨0, 0x3E800000⟩) := by decide +kernel

/-- T57: the base increment of note 69, and the copy in group lane 1. -/
theorem test_von : ((tVoice.cluster 0).basePinc.getD 1 0, (tVoice.cluster 0).laneActive,
    ((tVoice.cluster 0).voice 0).osc.map (·.omask)) = (0x3E000000, 1, [2, 0]) := by decide +kernel
/-- The first voice of a cluster snaps its weights: 0.70710677. -/
theorem test_von_weights : (tVoice.cluster 0).wn.getD 0 default = ⟨0x3F3504F3, 0⟩
    ∧ (tVoice.cluster 0).wf.getD 1 default = ⟨0x3F3504F3, 0⟩ := by decide +kernel

theorem test_voff : ((after (exec (.voff 0 0) tVoice)).cluster 0).laneActive = 0
    ∧ ((((after (exec (.voff 0 0) tVoice)).cluster 0).voice 0).osc.map (·.omask)) = [0, 0] := by decide +kernel
theorem test_voff_range : answer (exec (.voff 0 2) tVoice) = [0x04000000, 2] := by decide +kernel

theorem test_move : (tMoved.cluster 1).laneActive = 2 ∧ (tMoved.cluster 0).laneActive = 1
    ∧ (tMoved.cluster 1).base 3 = 0x3E000000 := by decide +kernel

/-- With no randomisation every new phase is 0, and 2 groups of 4 elements take 8 draws. -/
theorem test_reset : (after (exec (.reset 0 1) tVoice)).draws = tVoice.draws + 8 := by decide +kernel

/-- P1: the first sample of the sine, equal left and right, and silence in lane 1. -/
theorem test_process : (after (exec (.process 0 1 1 0) tVoice)).outMem
    = [(0, 0x3F7FFFFF), (1, 0x3F7FFFFF), (2, 0), (3, 0)] := by decide +kernel
/-- The phase is advanced before the lookup (T36). -/
theorem test_process_phase :
    ((((after (exec (.process 0 1 1 0) tVoice)).cluster 0).voice 0).osc.getD 0 default).phase.getD 2 0
      = 0x20000000 := by decide +kernel

/-! ### Micro-operations -/

/-- T20. -/
theorem test_level : [0, 1, 0x1FFFFFFF, 0x20000000, 0x3FFFFFFF, 0x40000000, 0x7FFFFFFF, 0x80000000].map
    (fun d => level Config.tiny d) = [3, 3, 3, 2, 2, 1, 1, 0] := by decide
/-- T22. -/
theorem test_resample : [(0x20000000, 0x50000000), (0x40000000, 0x28000000), (0x20000000, 0xF0000000)].map
    (fun q : Word × Word => resample Config.tiny [] bSine q.1 0 q.2) = [0x3F5A827A, 0x3F47C3B6, 0xBEB504F3] := by
  decide +kernel
/-- T30. -/
theorem test_delta : [0x3E000000, 0x3F7FFFFF, 0x3F800000, 0x7F800000, 0xBE800000, 0x3C162FC9].map delta
    = [0x20000000, 0xFFFFFF00, 0xFFFFFFFF, 0xFFFFFFFF, 0, 0x0258BF24] := by decide +kernel
/-- T32. -/
theorem test_start : [start 0x3F000000 0x80000000, start 0x3F800000 0x12345678, start 0x3E800000 0xFFFFFFFF,
    start 0xBF800000 5] = [0x40000000, 0x12345680, 0x40000000, 0] := by decide +kernel
/-- T33 with two frames: 0.999, 1.7, 1e20, −0.3. -/
theorem test_frameIdx : [0x3F7FBE77, 0x3FD9999A, 0x60AD78EC, 0xBE99999A].map (fun x => frameIdx x ⟨true, 2, []⟩)
    = [0, 1, 1, 0] := by decide +kernel
/-- T40: 2.9, 7.0, 0.0, NaN. -/
theorem test_unisonCount : [0x4039999A, 0x40E00000, 0, 0x7FC00000].map (unisonCount Config.tiny) = [2, 4, 1, 1] := by
  decide +kernel
/-- T41 and T42 for three copies. -/
theorem test_pack : [packMask Config.tiny 3 0, packMask Config.tiny 3 1] = [3, 2]
    ∧ [detuneRom Config.tiny 3 0 0, detuneRom Config.tiny 3 0 1, detuneRom Config.tiny 3 1 0,
        detuneRom Config.tiny 3 1 1] = [0, 0x3F800000, 0, 0xBF800000] := by decide +kernel
/-- T1. -/
theorem test_recip : [1, 4, 3, 10].map recip = [0x3F800000, 0x3E800000, 0x3EAAAAAB, 0x3DCCCCCD] := by decide +kernel
/-- The transport order of a word (`20_memory.md` R76). -/
theorem test_bytes : wordsOfBytes .littleEndian (wordBytes .littleEndian 0x03000107) = [0x03000107]
    ∧ wordBytes .bigEndian 0x03000107 = [3, 0, 1, 7]
    ∧ (hostTakeResponseBytes { State.reset with rspPort := [0x07000000, 2] }).map (·.1) = some [0, 0, 0, 7, 2, 0, 0, 0] := by
  decide

/-! ### The hypotheses of the statements, met: one theorem for each, every clause at a boundary of its range -/

theorem test_meets_DecodeReadsEveryEncoding : (Instr.process 255 0b11 0xFFFFFFFF 0).wellFormed 2 = true := by decide

theorem test_meets_DecodedWordsAreTheEncoding :
    decode 2 [0x03000207, 0x7F800000, 0x03000000] = .instr (.setp 0 2 7 0x7F800000) 2 := by decide

theorem test_meets_LengthFollowsFromOpcode :
    decode 2 [0x01000000, 1, 2] = .wait ∧ decode 2 [0x01000000, 1, 2, 3] = .instr (.init 1 2 3) 4
    ∧ decode 2 [0x02000001, 1, 2] = .illegal 0x02000001 3 := by decide

/-- Each of the four cases, at its lowest value. -/
theorem test_meets_IllegalEncodings :
    commandLength (Word.opc 0x0C000000).toNat ≤ ([] : List Word).length + 2
    ∧ decode 2 [0x0C000000, 0] = .illegal 0x0C000000 1 ∧ decode 2 [0x00000001, 0] = .illegal 0x00000001 1
    ∧ decode 2 [0x06000001, 0] = .illegal 0x06000001 1 ∧ decode 2 [0x05000080, 0] = .illegal 0x05000080 1
    ∧ decode 2 [0x09000100, 0] = .illegal 0x09000100 1 ∧ decode 2 [0x03000400, 0] = .illegal 0x03000400 2
    ∧ decode 2 [0x07000000, 0x01000000] = .illegal 0x07000000 2 := by decide

theorem test_meets_StepRunsDecodedCommand : (hostSend tVoice [0x06000000]).cfg.legal = true
    ∧ decode (hostSend tVoice [0x06000000]).cfg.v (hostSend tVoice [0x06000000]).cmdPort = .instr (.voff 0 0) 1 := by
  decide +kernel

theorem test_meets_StepAnswersIllegalCommand : (hostSend tVoice [0x06000001]).cfg.legal = true
    ∧ decode (hostSend tVoice [0x06000001]).cfg.v (hostSend tVoice [0x06000001]).cmdPort = .illegal 0x06000001 1 := by
  decide +kernel

theorem test_meets_StepWaitsForOperandWords : State.reset.cfg.legal = true ∧ State.reset.cmdPort = []
    ∧ ∃ w0 rest, (hostSend State.reset [0x01000000, 1, 2]).cmdPort = w0 :: rest
        ∧ rest.length + 1 < commandLength w0.opc.toNat :=
  ⟨by decide, by decide, _, _, rfl, by decide⟩

theorem test_meets_OnlyAnIllegalBuildStopsTheBlock : tBadBuild.cfg.legal = false ∧ State.reset.cfg.legal = true := by
  decide

theorem test_meets_ErrorsArePrecise : ∃ t, exec (.voff 0 2) tVoice = .next t
    ∧ t.rspPort = tVoice.rspPort ++ [BitVec.ofNat 32 (4 * 2 ^ 24), 2] :=
  ⟨_, next_of (by decide +kernel), by decide +kernel⟩

theorem test_meets_EachPieceOfStateHasItsWriters : ∃ t, exec (.von 0 1 60) tReady = .next t :=
  ⟨_, next_of (by decide +kernel)⟩

/-- A load into the other slot with slot 1 active and valid. -/
theorem test_meets_PublishedBankIsImmutable :
    (∃ t, step (hostSend tVoice [0x0A000000, 0, 8]) = .next t)
    ∧ (hostSend tVoice [0x0A000000, 0, 8]).activeBank.valid = true
    ∧ ((hostSend tVoice [0x0A000000, 0, 8]).bank 1).valid = true :=
  ⟨⟨_, next_of (by decide +kernel)⟩, by decide +kernel, by decide +kernel⟩

theorem test_meets_StepKeepsInvariant : (hostSend tVoice [0x02000100, 2, 0]).inv = true
    ∧ ∃ t, step (hostSend tVoice [0x02000100, 2, 0]) = .next t :=
  ⟨by decide +kernel, _, next_of (by decide +kernel)⟩

/-- A response is there to take, the last element of IMPORT is written, and the first of OUT has been. -/
theorem test_meets_HostActionsKeepInvariant : (after (exec (.process 0 1 1 0) tVoice)).inv = true
    ∧ (∃ r t, hostTakeResponse (after (exec (.process 0 1 1 0) tVoice)) = some (r, t))
    ∧ (∃ t, hostWriteImport (after (exec (.process 0 1 1 0) tVoice)) 15 0x3F000000 = some t)
    ∧ hostReadOut (after (exec (.process 0 1 1 0) tVoice)) 0 = some 0x3F7FFFFF :=
  ⟨by decide +kernel, ⟨_, _, rfl⟩, ⟨_, rfl⟩, by decide +kernel⟩

theorem test_meets_NopOnlyAnswers : Word.opc 0x00000001 = 0 ∧ Word.opc 0 = 0 := by decide

/-- The greatest finite rate, one sample, 256 clusters. -/
theorem test_meets_InitCreatesTheFreshPool : State.reset.cfg.legal = true
    ∧ flt F32.zero 0x7F7FFFFF = true ∧ flt 0x7F7FFFFF F32.inf = true ∧ (1 : Word) ≠ 0 ∧ (256 : Word) ≠ 0
    ∧ (256 : Word).toNat ≤ 256 := by decide +kernel

theorem test_meets_InitNamesTheBadOperand :
    ¬ (flt F32.zero 0x80000000 = true ∧ flt 0x80000000 F32.inf = true)
    ∧ flt F32.zero 0x00000001 = true ∧ flt 0x00000001 F32.inf = true ∧ 256 < (257 : Word).toNat := by
  decide +kernel

/-- The registers 6 and 7, and both errors of register 7. -/
theorem test_meets_StatReadsStatusRegisters : (6 : Field).toNat ≠ 7 ∧ tVoice.cfg.legal = true ∧ (7 : Field).toNat = 7
    ∧ State.reset.initialized = false ∧ tVoice.initialized = true ∧ tVoice.numClusters.toNat ≤ (2 : Field).toNat
    ∧ clusterReady tVoice 1 := by
  unfold clusterReady; decide +kernel

theorem test_meets_ReplaceSwapsTheActiveSlot : (1 : Field).toNat < tLoaded.cfg.numBankSlots
    ∧ (tLoaded.bank (1 : Field).toNat).valid = true ∧ tLoaded.cfg.numBankSlots ≤ (2 : Field).toNat
    ∧ (tLoaded.bank (0 : Field).toNat).valid = false := by decide +kernel

/-- Two frames, the whole of IMPORT, into slot 0 while slot 1 is active. -/
theorem test_meets_BloadBuildsTheSlot : tVoice.inv = true ∧ (0 : Field).toNat < tVoice.cfg.numBankSlots
    ∧ ¬ (tVoice.activeBank.valid = true ∧ tVoice.activeBank.slot = 0)
    ∧ (0 : Word).toNat + (16 : Word).toNat ≤ tVoice.cfg.importSize ∧ (16 : Word) ≠ 0
    ∧ (16 : Word).toNat % tVoice.cfg.tableSize = 0
    ∧ (16 : Word).toNat / tVoice.cfg.tableSize ≤ tVoice.cfg.maxFrames := by decide +kernel

theorem test_meets_FullLevelIsTheImportedFrame : tImport.inv = true
    ∧ ∃ t, exec (.bload 1 0 8) tImport = .next t ∧ ∃ w, t.rspPort = tImport.rspPort ++ [0, w] :=
  ⟨by decide +kernel, _, next_of (by decide +kernel), 1, by decide +kernel⟩

/-- The active slot, one element too many, and a count that is no multiple of the table. -/
theorem test_meets_BloadErrorsInOrder : (tVoice.activeBank.valid = true ∧ tVoice.activeBank.slot = 1)
    ∧ (0 : Field).toNat < tVoice.cfg.numBankSlots ∧ ¬ (tVoice.activeBank.valid = true ∧ tVoice.activeBank.slot = 0)
    ∧ tVoice.cfg.importSize < (9 : Word).toNat + (8 : Word).toNat
    ∧ (4 : Word).toNat + (12 : Word).toNat ≤ tVoice.cfg.importSize
    ∧ (12 : Word).toNat % tVoice.cfg.tableSize ≠ 0 := by decide +kernel

/-- The highest level below the full one and the last sample, and level 0. -/
theorem test_meets_LevelsBelowFullKeepTheirBins : Config.tiny.legal = true ∧ Config.tiny.buildMipmaps = .specDefault
    ∧ sine8.length = Config.tiny.tableSize ∧ sine8.all isFinite = true ∧ 2 < Config.tiny.numOctaves
    ∧ 0 < Config.tiny.numOctaves ∧ 7 < Config.tiny.tableSize := by decide +kernel

theorem test_meets_LevelFallsWithTheIncrement : Config.tiny.legal = true ∧ 2 ^ 31 ≤ (0x80000000 : Word).toNat
    ∧ (0x1FFFFFFF : Word).toNat < 2 ^ (32 - Config.tiny.numOctaves)
    ∧ 2 ^ (32 - Config.tiny.numOctaves) ≤ (0x20000000 : Word).toNat
    ∧ (0x1FFFFFFF : Word).toNat ≤ (0x20000000 : Word).toNat := by decide

theorem test_meets_NoSelectedPartialReachesNyquist : Config.tiny.legal = true
    ∧ 2 ≤ partials (level Config.tiny 0x3FFFFFFF) ∧ (0x0FFFFFFF : Word).toNat < 2 ^ (31 - Config.tiny.numOctaves)
    ∧ 4 ≤ partials (level Config.tiny 0x0FFFFFFF) := by decide

theorem test_meets_BankReadsStayInRange : Config.tiny.legal = true ∧ bSine.ok Config.tiny = true
    ∧ bSine.valid = true := by decide +kernel

/-- A build with exact fractions and one without, the fraction that rounds up to 1.0, and the table point 1 of
`B_SINE`. -/
theorem test_meets_LookupReadsAndInterpolates : k8.legal = true ∧ k8.numOctaves ≥ 8 ∧ Config.tiny.legal = true
    ∧ Config.tiny.numOctaves < 8 ∧ splitFrac Config.tiny 0x1FFFFFF0 = F32.one
    ∧ splitFrac Config.tiny 0x1FFFFFEF ≠ F32.one
    ∧ (0x20000000 : Word).toNat % 2 ^ (32 - Config.tiny.numOctaves) = 0 ∧ isFinite (bSine.read 17) = true
    ∧ isFinite (fsub [] (bSine.read 18) (bSine.read 17)) = true ∧ bSine.read 17 ≠ 0x80000000 := by decide +kernel

/-- The greatest finite value, the least divisor, the greatest u32, and the least radicand. -/
theorem test_meets_FloatOperationsRoundToNearestEven : isFinite 0x7F7FFFFF = true ∧ isFinite 0x80000001 = true
    ∧ isZero 0x80000001 = false ∧ 2 ^ 32 - 1 < 2 ^ 32 ∧ isFinite 0x00000001 = true ∧ fsign 0x00000001 = false := by
  decide

/-- Infinities of both signs, zeros of both signs, the least negative value, a NaN, and 0/0. -/
theorem test_meets_FloatSpecialValuesAndIdentities : isNaN 0x7F800000 = false ∧ (0x7F800000 : F32) ≠ 0x80000000
    ∧ isFinite 0x7F7FFFFF = true ∧ fsign 0x80000001 = true ∧ isZero 0x80000001 = false ∧ isNaN 0x7F800001 = true
    ∧ isInf 0x7F800000 = true ∧ isInf 0xFF800000 = true ∧ fsign 0x7F800000 ≠ fsign 0xFF800000
    ∧ isZero 0x80000000 = true ∧ isFinite 0x80000000 = true ∧ fval 0x80000000 + fval 0x80000000 = 0
    ∧ isNaN (fmul [] 0xFF800000 0x80000001) = false ∧ isNaN (fdiv [] 0x80000001 0) = false := by decide +kernel

theorem test_meets_ConversionsTruncateAndSaturate : isNaN 0x7F800001 = true ∧ fsign 0x80000000 = true
    ∧ isFinite 0x4F800000 = true ∧ fsign 0x4F800000 = false ∧ isInf 0x7F800000 = true ∧ fsign 0x7F800000 = false
    ∧ isInf 0xFF800000 = true ∧ 2 ^ 24 - 1 < 2 ^ 24 ∧ (-(2 ^ 31 - 1) : Int).natAbs < 2 ^ 31 := by decide

theorem test_meets_LinearSmootherCells : ([⟨0, 0x3E800000⟩, ⟨0x3F800000, 0⟩] : Lin)[1]? = some ⟨0x3F800000, 0⟩ := by
  decide

/-- A cell that ramps, one whose target is its value, and one that snaps because it is 0. -/
theorem test_meets_LogSmootherCells :
    ([⟨0x3E000000, 0x3F800000⟩, ⟨0, 0x3F800000⟩] : Log)[0]? = some ⟨0x3E000000, 0x3F800000⟩
    ∧ flt F32.zero 0x3E000000 = true ∧ flt 0x3E000000 F32.inf = true ∧ flt F32.zero 0x7F7FFFFF = true
    ∧ flt 0x7F7FFFFF F32.inf = true ∧ flt F32.zero F32.zero = false ∧ isNaN 0x3E000000 = false := by decide +kernel

theorem test_meets_IncrementAndStartingPhase : fsign 0x80000000 = true ∧ isFinite 0x3F7FFFFF = true
    ∧ fsign 0x3F7FFFFF = false ∧ isInf 0x7F800000 = true ∧ isZero 0x80000000 = true ∧ isNaN 0x7FC00000 = true := by
  decide

theorem test_meets_FrameIndexAndUnisonCountAreClamped : 1 ≤ bSine.numFrames ∧ bSine.numFrames ≤ 2 ^ 31
    ∧ 1 ≤ Config.tiny.maxUnison ∧ Config.tiny.maxUnison < 2 ^ 31 ∧ isFinite 0x40800000 = true
    ∧ fsign 0x40800000 = false ∧ isInf 0x7F800000 = true ∧ isNaN 0x7FC00000 = true := by decide

/-- The oscillator of `tVoice`: increment 0.125, back after 8 steps. -/
theorem test_meets_PhaseAccumulatesWithoutDrift :
    (((tVoice.cluster 0).voice 0).osc.getD 0 default).phase[2]? = some 0
    ∧ (((tVoice.cluster 0).voice 0).osc.getD 0 default).pinc[2]? = some ⟨0x3E000000, F32.one⟩
    ∧ 2 ^ 32 ∣ (List.replicate 8 ([] : Site)).length * (delta 0x3E000000).toNat := by decide +kernel

theorem test_meets_OscillatorStepsOneSample :
    (((tVoice.cluster 0).voice 0).osc.getD 0 default).phase[3]? = some 0
    ∧ (((tVoice.cluster 0).voice 0).osc.getD 0 default).pinc[3]? = some ⟨0x3E000000, F32.one⟩
    ∧ (((tVoice.cluster 0).voice 0).osc.getD 0 default).frame[3]? = some ⟨0, 0⟩ := by decide +kernel

theorem test_meets_PackPlacesEveryCopy : Config.tiny.legal = true ∧ 1 ≤ 3 ∧ 3 ≤ Config.tiny.maxUnison
    ∧ 1 < Config.tiny.v ∧ copyAt Config.tiny 3 1 1 = some 2 := by decide

theorem test_meets_DetuneRowIsSymmetric : 1 ≤ 2 ^ 24 ∧ 4 ≤ 2 ^ 24 ∧ (1 : Nat) % 2 = 1 ∧ 1 < 4 / 2 := by decide

theorem test_meets_NoteIncrementFollowsTheNote : flt F32.zero 0x00000001 = true ∧ flt 0x00000001 F32.inf = true
    ∧ 127 ≤ 127 ∧ ({ Config.tiny with exp2IntegerExact := true } : Config).exp2IntegerExact = true := by
  decide +kernel

theorem test_meets_TargetsOfACopy : Config.tiny.legal = true ∧ 3 < Config.tiny.e ∧ tCluster.cur 0 1 = 0
    ∧ isFinite (tCluster.cur 1 1) = true ∧ tCluster.cur 2 1 = 0 ∧ isNaN (tCluster.base 1) = false
    ∧ copyAt Config.tiny 1 0 (1 / 2) = none ∧ copyAt Config.tiny 1 0 (3 / 2) = some 0
    ∧ Config.tiny.frameSpread = .specDefault ∧ isNaN (tCluster.cur 3 1) = false
    ∧ tCluster.cur 3 1 ≠ 0x80000000 := by decide +kernel

/-- Of the one copy of `tVoice`, element 2 stays on and element 1 is off; in the fresh voice of lane 1, elements 2 and 3
turn on, in this order. -/
theorem test_meets_UnisonVoiceIsConfigured :
    (∃ o, ((tVoice.cluster 0).voice 0).osc[0]? = some o ∧ o.phase[2]? = some 0 ∧ o.pinc[2]? = some ⟨0x3E000000, F32.one⟩
      ∧ o.frame[2]? = some ⟨0, 0⟩ ∧ sel o.omask 2 = true)
    ∧ copyOn Config.tiny 1 0 2 = true ∧ copyOn Config.tiny 1 0 1 = false
    ∧ (turnsBefore Config.tiny 1 ((tVoice.cluster 0).voice 1) 0 3, laneTurns Config.tiny (tVoice.cluster 0) 1) = (1, 2)
    ∧ ∃ o, ((tVoice.cluster 0).voice 1).osc[0]? = some o ∧ o.phase[2]? = some 0 ∧ o.pinc[2]? = some ⟨0, F32.one⟩
      ∧ o.frame[2]? = some ⟨0, 0⟩ ∧ sel o.omask 2 = false :=
  ⟨⟨((tVoice.cluster 0).voice 0).osc.getD 0 default, by decide +kernel⟩, by decide, by decide, by decide +kernel,
    ((tVoice.cluster 0).voice 1).osc.getD 0 default, by decide +kernel⟩

/-- The default order, and a build that adds the left channel in descending order and the right in ascending order. -/
theorem test_meets_VoiceSumsItsGroups : Config.tiny.legal = true ∧ Config.tiny.foldOrder = none
    ∧ ((tVoice.cluster 0).voice 0).nOsc ≤ ((tVoice.cluster 0).voice 0).osc.length
    ∧ kFold.legal = true ∧ kFold.foldOrder = some (.node (.leaf 1) (.leaf 0), .node (.leaf 0) (.leaf 1))
    ∧ ∃ o, ((tVoice.cluster 0).voice 0).osc[1]? = some o :=
  ⟨by decide, by decide, by decide +kernel, by decide, by decide, ((tVoice.cluster 0).voice 0).osc.getD 1 default,
    by decide +kernel⟩

/-- The indexes 1 and 2 are the last in range and the first out of range, for two clusters and two lanes. -/
theorem test_meets_ClusterCommandChecksInOrder : State.reset.initialized = false ∧ tVoice.initialized = true
    ∧ tVoice.numClusters.toNat ≤ (2 : Field).toNat ∧ clusterReady tVoice 0 ∧ clusterReady tVoice 1
    ∧ (1 : Field).toNat < tVoice.cfg.v ∧ tVoice.cfg.v ≤ (2 : Field).toNat := by
  unfold clusterReady; decide +kernel

theorem test_meets_SetpSnapsTheSelectedLanes : clusterReady tVoice 1 ∧ 8 < (9 : Field).toNat
    ∧ (8 : Field).toNat ≤ 8 := by
  unfold clusterReady; decide +kernel

theorem test_meets_SetpsRampsTheSelectedLanes : clusterReady tVoice 0 ∧ 8 < (255 : Field).toNat
    ∧ (0 : Field).toNat ≤ 8 := by
  unfold clusterReady; decide +kernel

/-- A voice into the empty cluster 1 and into the used cluster 0. -/
theorem test_meets_VonStartsTheVoice : tVoice.inv = true ∧ clusterReady tVoice 0 ∧ clusterReady tVoice 1
    ∧ (1 : Field).toNat < tVoice.cfg.v ∧ (tVoice.cluster 1).laneActive = 0 ∧ (tVoice.cluster 0).laneActive ≠ 0
    ∧ copyOn Config.tiny 1 0 3 = true ∧ copyOn Config.tiny 1 1 3 = false := by
  unfold clusterReady; decide +kernel

theorem test_meets_VoffSilencesTheLane : tVoice.inv = true ∧ clusterReady tVoice 0
    ∧ (0 : Field).toNat < tVoice.cfg.v ∧ (1 : Field).toNat < tVoice.cfg.v
    ∧ maskBit (tVoice.cluster 0).laneActive 0 = true ∧ maskBit (tVoice.cluster 0).laneActive 1 = false := by
  unfold clusterReady; decide +kernel

theorem test_meets_MoveCopiesOneLane : tVoice.inv = true ∧ clusterReady tVoice 0 ∧ clusterReady tVoice 1
    ∧ (0 : Field).toNat < tVoice.cfg.v ∧ (1 : Field).toNat < tVoice.cfg.v ∧ ¬ ((0 : Field) = 1 ∧ (0 : Field) = 1) := by
  unfold clusterReady; decide +kernel

theorem test_meets_ResetReseedsTheSelectedLanes : tVoice.inv = true ∧ clusterReady tVoice 0
    ∧ maskBit 0b10 0 = false ∧ maskBit 0b10 1 = true := by
  unfold clusterReady; decide +kernel

/-- No sample, one too many, a window one element too long, and no bank. -/
theorem test_meets_ProcessErrorsInOrder : clusterReady tVoice 0 ∧ tVoice.maxBlock.toNat < (17 : Word).toNat
    ∧ tVoice.cfg.outSize < (61 : Word).toNat + (1 : Word).toNat * tVoice.cfg.e
    ∧ clusterReady { tVoice with activeBank := ⟨false, 0⟩ } 0
    ∧ (1 : Word) ≠ 0 ∧ (1 : Word).toNat ≤ tVoice.maxBlock.toNat
    ∧ (60 : Word).toNat + (1 : Word).toNat * tVoice.cfg.e ≤ tVoice.cfg.outSize := by
  unfold clusterReady; decide +kernel

/-- A block of 16 samples that fills OUT. -/
theorem test_meets_ProcessWritesOneBlock : tVoice.inv = true ∧ clusterReady tVoice 0 ∧ (16 : Word) ≠ 0
    ∧ (16 : Word).toNat ≤ tVoice.maxBlock.toNat
    ∧ (0 : Word).toNat + (16 : Word).toNat * tVoice.cfg.e ≤ tVoice.cfg.outSize ∧ tVoice.activeBank.valid = true
    ∧ maskBit ((tVoice.cluster 0).laneActive &&& 0b11) 0 = true
    ∧ maskBit ((tVoice.cluster 0).laneActive &&& 0b11) 1 = false := by
  unfold clusterReady; decide +kernel

/-- A block of one sample at the end of OUT, in cluster 1 of `tMoved`. -/
theorem test_meets_ProcessRunsItsStepsInOrder : tMoved.inv = true ∧ clusterReady tMoved 1 ∧ (1 : Word) ≠ 0
    ∧ (1 : Word).toNat ≤ tMoved.maxBlock.toNat
    ∧ (60 : Word).toNat + (1 : Word).toNat * tMoved.cfg.e ≤ tMoved.cfg.outSize ∧ tMoved.activeBank.valid = true
    ∧ maskBit ((tMoved.cluster 1).laneActive &&& 0b10) 1 = true := by
  unfold clusterReady; decide +kernel

theorem test_meets_ClusterStepMixesEachLane : Config.tiny.legal = true ∧ (tVoice.cluster 0).ok Config.tiny = true
    ∧ (∃ uv, (tVoice.cluster 0).voices[0]? = some uv) ∧ (∃ uv, (tVoice.cluster 0).voices[1]? = some uv)
    ∧ maskBit 0b01 0 = true ∧ maskBit 0b01 1 = false :=
  ⟨by decide, by decide +kernel, ⟨(tVoice.cluster 0).voice 0, by decide +kernel⟩,
    ⟨(tVoice.cluster 0).voice 1, by decide +kernel⟩, by decide, by decide⟩

/-- Width 0 in `tCluster`, and width 1 with a finite pan and level. -/
theorem test_meets_MixWeightsFollowTheParameters : tCluster.cur 6 0 = F32.zero
    ∧ ({ tCluster with params := tCluster.params.set 6 (List.replicate 4 ⟨F32.one, 0⟩) } : Cluster).cur 6 0 = F32.one
    ∧ isFinite (fdiv [] (fsub [] F32.one (tCluster.cur 7 0)) (i2f (unisonCount Config.tiny (tCluster.cur 8 0)))) = true
    ∧ isFinite (tCluster.cur 5 0) = true := by decide +kernel

/-- Cluster 0 with a second voice in lane 1, and without it; `RANDOM` is 0. -/
theorem test_meets_LaneOutputIsIndependentOfOtherLanes : (tVoice.inv = true ∧ tTwo.inv = true ∧ clusterReady tVoice 0
    ∧ clusterReady tTwo 0 ∧ (1 : Word) ≠ 0 ∧ (1 : Word).toNat ≤ tVoice.maxBlock.toNat
    ∧ (1 : Word).toNat ≤ tTwo.maxBlock.toNat ∧ tTwo.cfg = tVoice.cfg
    ∧ (60 : Word).toNat + (1 : Word).toNat * tVoice.cfg.e ≤ tVoice.cfg.outSize
    ∧ tVoice.activeBank.valid = true ∧ tTwo.activeBank.valid = true
    ∧ tTwo.bank tTwo.activeBank.slot.toNat = tVoice.bank tVoice.activeBank.slot.toNat
    ∧ 0 < tVoice.cfg.v ∧ maskBit 0b01 0 = maskBit 0b11 0)
    ∧ sameLane (getLane (tVoice.cluster 0) 0) (getLane (tTwo.cluster 0) 0)
    ∧ sameDraws tVoice.cfg (clTickN [] (tVoice.cluster 0) 1) (clTickN [] (tTwo.cluster 0) 1)
      ((tVoice.cluster 0).laneActive &&& 0b01) ((tTwo.cluster 0).laneActive &&& 0b11) tVoice.draws tTwo.draws 0 0 :=
  ⟨by unfold clusterReady; decide +kernel,
    sameLane_of_eq (by decide +kernel), fun _ => .inl (by decide +kernel)⟩

/-- No copy of the lane turns on, so that it takes no draw. -/
theorem tMoved_turns : laneTurns tMoved.cfg (clTickN [] (tMoved.cluster 0) 16) 0 = 0 := by decide +kernel

/-- Lane 0 of cluster 0 and the lane it was moved to, over a block that fills OUT. -/
theorem test_meets_MovedVoiceContinuesSeamlessly : (tMoved.inv = true ∧ clusterReady tMoved 0 ∧ clusterReady tMoved 1
    ∧ (16 : Word) ≠ 0 ∧ (16 : Word).toNat ≤ tMoved.maxBlock.toNat
    ∧ (0 : Word).toNat + (16 : Word).toNat * tMoved.cfg.e ≤ tMoved.cfg.outSize ∧ tMoved.activeBank.valid = true
    ∧ 0 < tMoved.cfg.v ∧ 1 < tMoved.cfg.v ∧ maskBit 0b01 0 = maskBit 0b10 1
    ∧ getLane (tMoved.cluster 0) 0 = getLane (tMoved.cluster 1) 1)
    ∧ sameDraws tMoved.cfg (clTickN [] (tMoved.cluster 0) 16) (clTickN [] (tMoved.cluster 1) 16)
      ((tMoved.cluster 0).laneActive &&& 0b01) ((tMoved.cluster 1).laneActive &&& 0b10) tMoved.draws tMoved.draws 0 1 := by
  refine ⟨by unfold clusterReady; decide +kernel, fun _ => .inr fun j hj => ?_⟩
  rw [tMoved_turns] at hj
  omega

end Sys2Proof.Tests
end

section
/-! SUPPORT. A binary32 pattern as its sign and its low 31 bits (`00_scope.md` R12): the classes, the magnitude, the
sign change. Every later proof about floats goes through these two parts. -/

namespace Sys2Proof.Machine

/-- The exponent and fraction fields of a pattern as one number. -/
def lowBits (x : F32) : Nat := x.toNat % 2 ^ 31

/-- The magnitude that low bits spell, in units of 2^−149: `fmag` without the pattern around it. -/
def lowMag (low : Nat) : Nat :=
  if low / 2 ^ 23 = 0 then low % 2 ^ 23 else (2 ^ 23 + low % 2 ^ 23) * 2 ^ (low / 2 ^ 23 - 1)

theorem lowBits_lt (x : F32) : lowBits x < 2 ^ 31 := Nat.mod_lt _ (by decide)

theorem fexp_eq_lowBits (x : F32) : fexp x = lowBits x / 2 ^ 23 := by
  unfold fexp lowBits
  omega

theorem ffrac_eq_lowBits (x : F32) : ffrac x = lowBits x % 2 ^ 23 := by
  unfold ffrac lowBits
  omega

theorem fmag_eq_lowMag (x : F32) : fmag x = lowMag (lowBits x) := by
  unfold fmag lowMag
  rw [fexp_eq_lowBits, ffrac_eq_lowBits]

theorem isFinite_iff (x : F32) : isFinite x = true ↔ lowBits x < 255 * 2 ^ 23 := by
  have := lowBits_lt x
  simp only [isFinite, fexp_eq_lowBits, bne_iff_ne]
  omega

theorem isInf_iff (x : F32) : isInf x = true ↔ lowBits x = 255 * 2 ^ 23 := by
  have := lowBits_lt x
  simp only [isInf, fexp_eq_lowBits, ffrac_eq_lowBits, Bool.and_eq_true, beq_iff_eq]
  omega

theorem isNaN_iff (x : F32) : isNaN x = true ↔ 255 * 2 ^ 23 < lowBits x := by
  have := lowBits_lt x
  simp only [isNaN, fexp_eq_lowBits, ffrac_eq_lowBits, Bool.and_eq_true, beq_iff_eq, bne_iff_ne]
  omega

theorem isZero_iff (x : F32) : isZero x = true ↔ lowBits x = 0 := by
  simp [isZero, lowBits]

/-- A finite pattern is no infinity and no NaN. -/
theorem classes_of_isFinite {x : F32} (h : isFinite x = true) : isNaN x = false ∧ isInf x = false := by
  have := (isFinite_iff x).1 h
  constructor
  · rw [Bool.eq_false_iff, ne_eq, isNaN_iff]; omega
  · rw [Bool.eq_false_iff, ne_eq, isInf_iff]; omega

/-- An infinity is not finite, no NaN and no zero. -/
theorem classes_of_isInf {x : F32} (h : isInf x = true) :
    isFinite x = false ∧ isNaN x = false ∧ isZero x = false := by
  have := (isInf_iff x).1 h
  refine ⟨?_, ?_, ?_⟩
  · rw [Bool.eq_false_iff, ne_eq, isFinite_iff]; omega
  · rw [Bool.eq_false_iff, ne_eq, isNaN_iff]; omega
  · rw [Bool.eq_false_iff, ne_eq, isZero_iff]; omega

/-- A zero is finite. -/
theorem isFinite_of_isZero {x : F32} (h : isZero x = true) : isFinite x = true := by
  rw [isZero_iff] at h
  rw [isFinite_iff]
  omega

/-- A pattern that is no NaN is finite or an infinity. -/
theorem isFinite_or_isInf {x : F32} (h : isNaN x = false) : isFinite x = true ∨ isInf x = true := by
  rw [Bool.eq_false_iff, ne_eq, isNaN_iff] at h
  rw [isFinite_iff, isInf_iff]
  omega

theorem toNat_mkF (neg : Bool) (low : Nat) (h : low < 2 ^ 31) :
    (mkF neg low).toNat = (if neg then 2 ^ 31 else 0) + low := by
  unfold mkF
  rw [BitVec.toNat_ofNat, Nat.mod_eq_of_lt]
  split <;> omega

theorem lowBits_mkF (neg : Bool) (low : Nat) (h : low < 2 ^ 31) : lowBits (mkF neg low) = low := by
  rw [lowBits, toNat_mkF neg low h]
  split <;> omega

theorem fsign_mkF (neg : Bool) (low : Nat) (h : low < 2 ^ 31) : fsign (mkF neg low) = neg := by
  rw [fsign, toNat_mkF neg low h]
  cases neg <;> simp <;> omega

/-- A pattern is made of its sign and its low bits. -/
theorem mkF_fsign_lowBits (x : F32) : mkF (fsign x) (lowBits x) = x := by
  apply BitVec.eq_of_toNat_eq
  rw [toNat_mkF _ _ (lowBits_lt x)]
  have := x.isLt
  simp only [fsign, lowBits, beq_iff_eq]
  split <;> omega

theorem lowBits_eq_extract (x : F32) : lowBits x = (x.extractLsb' 0 31).toNat := by
  simp [lowBits]

theorem fsign_eq_getLsbD (x : F32) : fsign x = x.getLsbD 31 := by
  rw [fsign, BitVec.getLsbD, Nat.testBit_eq_decide_div_mod_eq, Bool.eq_iff_iff]
  simp

@[simp] theorem lowBits_fnegate (x : F32) : lowBits (fnegate x) = lowBits x := by
  have signBitOnly : (0x80000000#32).extractLsb' 0 31 = 0 := by decide
  rw [lowBits_eq_extract, lowBits_eq_extract, fnegate, BitVec.extractLsb'_xor, signBitOnly]
  simp

@[simp] theorem fsign_fnegate (x : F32) : fsign (fnegate x) = !fsign x := by
  simp [fsign_eq_getLsbD, fnegate]

@[simp] theorem isNaN_fnegate (x : F32) : isNaN (fnegate x) = isNaN x := by
  rw [Bool.eq_iff_iff]; simp [isNaN_iff]

@[simp] theorem isInf_fnegate (x : F32) : isInf (fnegate x) = isInf x := by
  rw [Bool.eq_iff_iff]; simp [isInf_iff]

@[simp] theorem isFinite_fnegate (x : F32) : isFinite (fnegate x) = isFinite x := by
  rw [Bool.eq_iff_iff]; simp [isFinite_iff]

@[simp] theorem fval_fnegate (x : F32) : fval (fnegate x) = -fval x := by
  simp only [fval, fsign_fnegate, fmag_eq_lowMag, lowBits_fnegate]
  cases fsign x <;> simp

theorem natAbs_fval (x : F32) : (fval x).natAbs = fmag x := by
  unfold fval
  split <;> simp

/-- A drawn NaN is a quiet NaN, whatever the draw (`00_scope.md` R12). -/
theorem quietNaN_isNaN_quiet (site : Site) :
    isNaN (quietNaN site) = true ∧ (quietNaN site).getLsbD 22 = true := by
  constructor
  · have payload : (0x7FC00000#32 : F32).extractLsb' 0 31 = 0x7FC00000#31 := by decide
    rw [isNaN_iff, lowBits_eq_extract, quietNaN, BitVec.extractLsb'_or, payload, BitVec.toNat_or]
    exact Nat.lt_of_lt_of_le (by decide) Nat.right_le_or
  · simp [quietNaN]

end Sys2Proof.Machine
end

section
/-! SUPPORT. `roundMag` rounds to nearest, ties to even (`00_scope.md` R12). A low pattern is e·2^23 + m and spells
m·2^e; a float below 2^(23+e) is too far away to matter, and every other one is a multiple of 2^e, so that rounding
p/q is rounding p/(q·2^e) to an integer. -/

namespace Sys2Proof.Machine

/-! ### The magnitudes of floats -/

/-- Carrying the significand 2^24 into the exponent field spells the same magnitude. -/
theorem lowMag_scaled (e m : Nat) (hm : m ≤ 2 ^ 24) (h : e = 0 ∨ 2 ^ 23 ≤ m) :
    lowMag (e * 2 ^ 23 + m) = m * 2 ^ e := by
  unfold lowMag
  rcases Nat.lt_or_ge m (2 ^ 23) with hlt | hge
  · obtain rfl : e = 0 := by omega
    rw [if_pos (by omega)]
    omega
  rw [if_neg (by omega)]
  rcases Nat.lt_or_ge m (2 ^ 24) with hlt | hge'
  · rw [show (e * 2 ^ 23 + m) / 2 ^ 23 - 1 = e by omega, show 2 ^ 23 + (e * 2 ^ 23 + m) % 2 ^ 23 = m by omega]
  · obtain rfl : m = 2 ^ 24 := by omega
    rw [show (e * 2 ^ 23 + 2 ^ 24) / 2 ^ 23 - 1 = e + 1 by omega,
      show 2 ^ 23 + (e * 2 ^ 23 + 2 ^ 24) % 2 ^ 23 = 2 ^ 23 by omega, Nat.pow_succ]
    omega

/-- Every low pattern is an exponent and a significand, normalised but in the subnormals. -/
theorem exists_scaled (low : Nat) : ∃ e m, low = e * 2 ^ 23 + m ∧ m < 2 ^ 24 ∧ (e = 0 ∨ 2 ^ 23 ≤ m) := by
  rcases Nat.lt_or_ge low (2 ^ 23) with h | h
  · exact ⟨0, low, by omega, by omega, .inl rfl⟩
  · exact ⟨low / 2 ^ 23 - 1, 2 ^ 23 + low % 2 ^ 23, by omega, by omega, .inr (by omega)⟩

/-- A larger pattern spells a larger magnitude. -/
theorem lowMag_strictMono : StrictMono lowMag := by
  refine strictMono_nat_of_lt_succ fun low => ?_
  obtain ⟨e, m, rfl, hm, h⟩ := exists_scaled low
  rw [Nat.add_assoc, lowMag_scaled e m (by omega) h, lowMag_scaled e (m + 1) (by omega) (by omega)]
  exact Nat.mul_lt_mul_of_pos_right (Nat.lt_succ_self m) (Nat.two_pow_pos e)

@[simp] theorem lowMag_zero : lowMag 0 = 0 := rfl

/-- The magnitude of a float with a low exponent is small, that of any other a multiple of its unit. -/
theorem lowMag_lt_or_dvd (low e : Nat) : lowMag low < 2 ^ 23 * 2 ^ e ∨ 2 ^ e ∣ lowMag low := by
  obtain ⟨e', m, rfl, hm, h⟩ := exists_scaled low
  rw [lowMag_scaled e' m (by omega) h]
  rcases Nat.lt_or_ge e' e with he | he
  · left
    calc m * 2 ^ e' < 2 ^ 24 * 2 ^ e' := Nat.mul_lt_mul_of_pos_right hm (Nat.two_pow_pos e')
      _ = 2 ^ 23 * 2 ^ (e' + 1) := by rw [Nat.pow_succ]; omega
      _ ≤ 2 ^ 23 * 2 ^ e := Nat.mul_le_mul_left _ (Nat.pow_le_pow_right (by decide) he)
  · exact .inr (Dvd.dvd.mul_left (pow_dvd_pow 2 he) m)

/-- The magnitude of the largest finite float. -/
theorem lowMag_le_of_finite {low : Nat} (h : low < 255 * 2 ^ 23) : lowMag low ≤ (2 ^ 24 - 1) * 2 ^ 253 := by
  rw [← lowMag_scaled 253 (2 ^ 24 - 1) (by decide) (by decide)]
  exact lowMag_strictMono.monotone (by omega)

/-! ### Rounding to an integer -/

/-- The integer nearest to p/u, ties to even. -/
def nearestInt (p u : Nat) : Nat :=
  if u < 2 * (p % u) || (2 * (p % u) == u && p / u % 2 == 1) then p / u + 1 else p / u

theorem nearestInt_eq_or (p u : Nat) : nearestInt p u = p / u ∨ nearestInt p u = p / u + 1 := by
  unfold nearestInt
  split <;> simp

/-- The nearest integer is at most half a unit away, and even at exactly half a unit. -/
theorem nearestInt_error (p u : Nat) (hu : 0 < u) :
    2 * ((nearestInt p u * u : Int) - p).natAbs ≤ u
    ∧ (2 * ((nearestInt p u * u : Int) - p).natAbs = u → nearestInt p u % 2 = 0) := by
  have hp : (p : Int) = (p / u : Nat) * (u : Int) + (p % u : Nat) := by
    exact_mod_cast (Nat.div_add_mod' p u).symm
  have hr := Nat.mod_lt p hu
  rw [hp, nearestInt]
  generalize p / u = m at *
  generalize p % u = r at *
  split
  · rename_i hup
    simp only [Bool.or_eq_true, decide_eq_true_eq, Bool.and_eq_true, beq_iff_eq] at hup
    rw [show ((m + 1 : Nat) : Int) * u - (m * u + r) = u - r by push_cast; ring]
    omega
  · rename_i hdown
    simp only [Bool.or_eq_true, decide_eq_true_eq, Bool.and_eq_true, beq_iff_eq] at hdown
    rw [show (m : Int) * u - (m * u + r) = -r by ring]
    omega

/-- No other integer is nearer, and one as near makes the nearest one even. -/
theorem nearestInt_nearest (p u k : Nat) (hu : 0 < u) :
    ((nearestInt p u * u : Int) - p).natAbs ≤ ((k * u : Int) - p).natAbs
    ∧ (((nearestInt p u * u : Int) - p).natAbs = ((k * u : Int) - p).natAbs → k ≠ nearestInt p u →
        nearestInt p u % 2 = 0) := by
  obtain ⟨hhalf, heven⟩ := nearestInt_error p u hu
  rcases eq_or_ne k (nearestInt p u) with rfl | hk
  · simp
  have hdiff : 0 < ((k : Int) - nearestInt p u).natAbs := by omega
  have apart : u ≤ ((k * u : Int) - nearestInt p u * u).natAbs := by
    rw [← sub_mul, Int.natAbs_mul, Int.natAbs_natCast]
    exact Nat.le_mul_of_pos_left u hdiff
  exact ⟨by omega, fun heq _ => heven (by omega)⟩

/-! ### Rounding to a float -/

/-- The exponent at which `roundMag` rounds. -/
def roundExp (p q : Nat) : Nat := Nat.log2 (p / q) - 23

/-- The significand to which `roundMag` rounds. -/
def roundSig (p q : Nat) : Nat := nearestInt p (q * 2 ^ roundExp p q)

theorem roundMag_eq (p q : Nat) : roundMag p q = min (roundExp p q * 2 ^ 23 + roundSig p q) (255 * 2 ^ 23) := rfl

/-- At that exponent the quotient has at most 24 bits, and all 24 of them unless it is subnormal. -/
theorem quotient_bounds (p q : Nat) : p / (q * 2 ^ roundExp p q) < 2 ^ 24
    ∧ (roundExp p q = 0 ∨ 2 ^ 23 ≤ p / (q * 2 ^ roundExp p q)) := by
  rw [← Nat.div_div_eq_div_mul]
  unfold roundExp
  generalize p / q = n
  constructor
  · rw [Nat.div_lt_iff_lt_mul (Nat.two_pow_pos _), ← pow_add]
    exact Nat.lt_of_lt_of_le Nat.lt_log2_self (Nat.pow_le_pow_right (by decide) (by omega))
  · rcases Nat.eq_zero_or_pos (n.log2 - 23) with h | h
    · exact .inl h
    · right
      rw [Nat.le_div_iff_mul_le (Nat.two_pow_pos _), ← pow_add, Nat.add_sub_cancel' (by omega)]
      exact Nat.log2_self_le (by rintro rfl; simp at h)

theorem roundSig_bounds (p q : Nat) :
    roundSig p q ≤ 2 ^ 24 ∧ (roundExp p q = 0 ∨ 2 ^ 23 ≤ roundSig p q) := by
  obtain ⟨hlt, hge⟩ := quotient_bounds p q
  have := nearestInt_eq_or p (q * 2 ^ roundExp p q)
  unfold roundSig
  omega

theorem roundMag_le (p q : Nat) : roundMag p q ≤ 255 * 2 ^ 23 := Nat.min_le_right _ _

@[simp] theorem roundMag_zero (q : Nat) : roundMag 0 q = 0 := by
  simp [roundMag]

theorem roundMag_of_finite {p q : Nat} (h : roundMag p q < 255 * 2 ^ 23) :
    roundMag p q = roundExp p q * 2 ^ 23 + roundSig p q := by
  rw [roundMag_eq] at h ⊢
  omega

theorem lowMag_roundMag {p q : Nat} (h : roundMag p q < 255 * 2 ^ 23) :
    lowMag (roundMag p q) = roundSig p q * 2 ^ roundExp p q := by
  rw [roundMag_of_finite h, lowMag_scaled _ _ (roundSig_bounds p q).1 (roundSig_bounds p q).2]

/-- The nearest integer stays below 2^24 up to the middle between 2^24 − 1 and 2^24. -/
theorem nearestInt_lt_iff {p u : Nat} (hu : 0 < u) (h : p / u < 2 ^ 24) :
    nearestInt p u < 2 ^ 24 ↔ 2 * p < (2 ^ 25 - 1) * u := by
  have hp := Nat.div_add_mod' p u
  have hr := Nat.mod_lt p hu
  unfold nearestInt
  rcases Nat.lt_or_ge (p / u) (2 ^ 24 - 1) with hlt | hge
  · have := Nat.mul_le_mul_right u (show p / u + 2 ≤ 2 ^ 24 by omega)
    refine iff_of_true (by split <;> omega) ?_
    rw [Nat.add_mul] at this
    omega
  · have hm : p / u = 2 ^ 24 - 1 := by omega
    have hodd : p / u % 2 = 1 := by omega
    rw [show (2 ^ 25 - 1) * u = 2 * (p / u * u) + u by rw [hm]; omega]
    simp only [hodd, beq_self_eq_true, Bool.and_true, Bool.or_eq_true, decide_eq_true_eq, beq_iff_eq]
    split
    · exact iff_of_false (by omega) (by omega)
    · exact iff_of_true (by omega) (by omega)

/-- The result is finite below the middle between the largest finite float and the next power of two. -/
theorem roundMag_finite_iff (p q : Nat) (hq : 0 < q) :
    roundMag p q < 255 * 2 ^ 23 ↔ p < (2 ^ 25 - 1) * 2 ^ 252 * q := by
  obtain ⟨hlt, hge⟩ := quotient_bounds p q
  obtain ⟨hle, hnorm⟩ := roundSig_bounds p q
  have hu : 0 < q * 2 ^ roundExp p q := Nat.mul_pos hq (Nat.two_pow_pos _)
  have hmin : roundMag p q < 255 * 2 ^ 23 ↔ roundExp p q * 2 ^ 23 + roundSig p q < 255 * 2 ^ 23 := by
    rw [roundMag_eq]; omega
  rw [hmin, Nat.mul_assoc, Nat.mul_comm _ q]
  unfold roundSig at *
  generalize roundExp p q = e at *
  rcases Nat.lt_trichotomy e 253 with he | he | he
  · refine iff_of_true (by omega) ?_
    calc p < 2 ^ 24 * (q * 2 ^ e) := (Nat.div_lt_iff_lt_mul hu).1 hlt
      _ ≤ (2 ^ 25 - 1) * (q * 2 ^ 252) :=
        Nat.mul_le_mul (by decide) (Nat.mul_le_mul_left q (Nat.pow_le_pow_right (by decide) (by omega)))
  · have hsig := nearestInt_lt_iff hu hlt
    have hunit : q * 2 ^ e = 2 * (q * 2 ^ 252) := by rw [he, Nat.pow_succ]; ring
    rw [hunit] at hsig ⊢
    omega
  · refine iff_of_false (by omega) (Nat.not_lt.2 ?_)
    calc (2 ^ 25 - 1) * (q * 2 ^ 252) ≤ 2 ^ 25 * (q * 2 ^ 252) := Nat.mul_le_mul_right _ (by decide)
      _ = 2 ^ 23 * (q * 2 ^ 254) := by rw [Nat.pow_add 2 252 2]; ring
      _ ≤ 2 ^ 23 * (q * 2 ^ e) :=
        Nat.mul_le_mul_left _ (Nat.mul_le_mul_left q (Nat.pow_le_pow_right (by decide) he))
      _ ≤ p := (Nat.le_div_iff_mul_le hu).1 (hge.resolve_left (by omega))

/-- No float is nearer to p/q than the result, and one as near makes the result even. -/
theorem roundMag_nearest {p q : Nat} (hq : 0 < q) (hfin : roundMag p q < 255 * 2 ^ 23) (low : Nat) :
    ((lowMag (roundMag p q) * q : Int) - p).natAbs ≤ ((lowMag low * q : Int) - p).natAbs
    ∧ (((lowMag (roundMag p q) * q : Int) - p).natAbs = ((lowMag low * q : Int) - p).natAbs →
        lowMag low ≠ lowMag (roundMag p q) → roundMag p q % 2 = 0) := by
  have hu : 0 < q * 2 ^ roundExp p q := Nat.mul_pos hq (Nat.two_pow_pos _)
  have hparity : roundMag p q % 2 = nearestInt p (q * 2 ^ roundExp p q) % 2 := by
    rw [roundMag_of_finite hfin, roundSig]; omega
  have hunits : ∀ k : Nat, ((k * 2 ^ roundExp p q : Nat) * q : Int) = k * (q * 2 ^ roundExp p q : Nat) := by
    intro k; push_cast; ring
  rw [hparity, lowMag_roundMag hfin, roundSig, hunits]
  have hcase : 2 ^ roundExp p q ∣ lowMag low
      ∨ (2 ^ 23 ≤ p / (q * 2 ^ roundExp p q) ∧ lowMag low < 2 ^ 23 * 2 ^ roundExp p q) := by
    rcases (quotient_bounds p q).2 with hsub | hnorm
    · simp [hsub]
    · exact (lowMag_lt_or_dvd low _).symm.imp_right fun hsmall => ⟨hnorm, hsmall⟩
  rcases hcase with ⟨k, hk⟩ | ⟨hnorm, hsmall⟩
  · rw [hk, Nat.mul_comm _ k, hunits]
    obtain ⟨hle, heven⟩ := nearestInt_nearest p (q * 2 ^ roundExp p q) k hu
    exact ⟨hle, fun heq hne => heven heq (by rintro rfl; exact hne rfl)⟩
  · have habove : 2 ^ 23 * (q * 2 ^ roundExp p q) ≤ p := (Nat.le_div_iff_mul_le hu).1 hnorm
    have hbelow : lowMag low * q < 2 ^ 23 * (q * 2 ^ roundExp p q) := by
      rw [Nat.mul_left_comm, Nat.mul_comm q]
      exact Nat.mul_lt_mul_of_pos_right hsmall hq
    obtain ⟨hle, -⟩ := nearestInt_nearest p (q * 2 ^ roundExp p q) (2 ^ 23) hu
    generalize q * 2 ^ roundExp p q = u at *
    have hlow : ((lowMag low * q : Nat) : Int) = lowMag low * q := by push_cast; rfl
    omega

end Sys2Proof.Machine
end

section
/-! SUPPORT. The rounded results as floats: nearest to the exact signed result (`00_scope.md` R12), exact where the
result is a float. -/

namespace Sys2Proof.Machine

/-- An integer with its sign changed or kept. -/
def withSign (neg : Bool) (x : Int) : Int := if neg then -x else x

@[simp] theorem withSign_withSign (neg : Bool) (x : Int) : withSign neg (withSign neg x) = x := by
  cases neg <;> simp [withSign]

theorem fval_eq_withSign (x : F32) : fval x = withSign (fsign x) (lowMag (lowBits x)) := by
  rw [fval, withSign, fmag_eq_lowMag]

theorem fval_mkF (neg : Bool) (low : Nat) (h : low < 2 ^ 31) : fval (mkF neg low) = withSign neg (lowMag low) := by
  rw [fval_eq_withSign, fsign_mkF neg low h, lowBits_mkF neg low h]

/-- The sign that two numbers share does not change how far apart they are. -/
theorem natAbs_withSign_sub (neg : Bool) (a b : Int) (q : Nat) :
    (withSign neg a * q - withSign neg b).natAbs = (a * q - b).natAbs := by
  cases neg with
  | false => rfl
  | true => rw [← Int.natAbs_neg]; congr 1; simp only [withSign, if_true]; ring

theorem eq_withSign_natAbs {neg : Bool} {num : Int} (hsign : num ≠ 0 → neg = decide (num < 0)) :
    num = withSign neg num.natAbs := by
  rcases eq_or_ne num 0 with rfl | h
  · cases neg <;> rfl
  · simp only [hsign h, withSign, decide_eq_true_eq]
    split <;> omega

/-- A float of the other sign than the exact result is no nearer than zero is. -/
theorem roundMag_nearest_signed {p q : Nat} (hq : 0 < q) (hfin : roundMag p q < 255 * 2 ^ 23) {low : Nat} {v : Int}
    (hv : v = lowMag low ∨ v = -(lowMag low : Int)) :
    ((lowMag (roundMag p q) * q : Int) - p).natAbs ≤ (v * q - p).natAbs
    ∧ (((lowMag (roundMag p q) * q : Int) - p).natAbs = (v * q - p).natAbs →
        v ≠ lowMag (roundMag p q) → roundMag p q % 2 = 0) := by
  obtain hpos | ⟨hneg, hmag⟩ : v = lowMag low ∨ (v = -(lowMag low : Int) ∧ 0 < lowMag low) := by omega
  · subst hpos
    exact_mod_cast roundMag_nearest hq hfin low
  · obtain ⟨hzero, -⟩ := roundMag_nearest hq hfin 0
    have hfar : 0 < lowMag low * q := Nat.mul_pos hmag hq
    have hvq : v * q = -((lowMag low * q : Nat) : Int) := by rw [hneg]; push_cast; ring
    rw [lowMag_zero, Nat.cast_zero, Int.zero_mul] at hzero
    rw [hvq]
    exact ⟨by omega, fun heq => by omega⟩

/-- What `roundMag` gives, with the sign of the exact result, is the float nearest to it; the sign of an exact zero
is free. -/
theorem nearestEven_mkF {neg : Bool} {p q : Nat} {num : Int} (hq : 0 < q) (habs : num.natAbs = p)
    (hsign : num ≠ 0 → neg = decide (num < 0)) : NearestEven num q (mkF neg (roundMag p q)) := by
  have hle := roundMag_le p q
  have hlow : lowBits (mkF neg (roundMag p q)) = roundMag p q := lowBits_mkF _ _ (by omega)
  unfold NearestEven
  rw [habs]
  split
  next hsmall =>
    have hfin := (roundMag_finite_iff p q hq).2 hsmall
    refine ⟨(isFinite_iff _).2 (by rwa [hlow]), fun y _ => ?_⟩
    have hparity : ffrac (mkF neg (roundMag p q)) % 2 = roundMag p q % 2 := by
      rw [ffrac_eq_lowBits, hlow]; omega
    obtain ⟨v, hv, hmag⟩ : ∃ v, fval y = withSign neg v
        ∧ (v = lowMag (lowBits y) ∨ v = -(lowMag (lowBits y) : Int)) := by
      refine ⟨withSign neg (fval y), by simp, ?_⟩
      rw [fval_eq_withSign]
      cases neg <;> cases fsign y <;> simp [withSign]
    obtain ⟨hnear, heven⟩ := roundMag_nearest_signed hq hfin hmag
    rw [hparity, fval_mkF _ _ (by omega), hv, eq_withSign_natAbs hsign, habs, natAbs_withSign_sub,
      natAbs_withSign_sub]
    exact ⟨hnear, fun heq hne => heven heq (by rintro rfl; exact hne rfl)⟩
  next hlarge =>
    have hinf : roundMag p q = 255 * 2 ^ 23 := by
      have := (roundMag_finite_iff p q hq).not.2 hlarge
      omega
    refine ⟨(isInf_iff _).2 (by rw [hlow, hinf]), ?_⟩
    rw [fsign_mkF _ _ (by omega)]
    refine hsign fun h => hlarge ?_
    rw [h] at habs
    rw [← habs]
    exact Nat.mul_pos (by decide) hq

/-- A result that is a significand below 2^24 at some exponent is not rounded. -/
theorem lowMag_roundMag_of_exact {p q m j : Nat} (hq : 0 < q) (hm : m < 2 ^ 24) (hj : j ≤ 253)
    (hp : p = m * 2 ^ j * q) : roundMag p q < 255 * 2 ^ 23 ∧ lowMag (roundMag p q) = m * 2 ^ j := by
  have hfin : roundMag p q < 255 * 2 ^ 23 := by
    rw [roundMag_finite_iff _ _ hq, hp]
    refine Nat.mul_lt_mul_of_pos_right ?_ hq
    calc m * 2 ^ j ≤ (2 ^ 24 - 1) * 2 ^ 253 :=
          Nat.mul_le_mul (by omega) (Nat.pow_le_pow_right (by decide) hj)
      _ < (2 ^ 25 - 1) * 2 ^ 252 := by decide
  have hexp : roundExp p q ≤ j := by
    rw [roundExp, hp, Nat.mul_div_cancel _ hq]
    rcases Nat.eq_zero_or_pos m with rfl | hpos
    · simp
    · have hlog : Nat.log2 (m * 2 ^ j) < 24 + j := by
        rw [Nat.log2_lt (Nat.mul_pos hpos (Nat.two_pow_pos j)).ne', pow_add]
        exact Nat.mul_lt_mul_of_pos_right hm (Nat.two_pow_pos j)
      omega
  have hu : 0 < q * 2 ^ roundExp p q := Nat.mul_pos hq (Nat.two_pow_pos _)
  have hunits : p = m * 2 ^ (j - roundExp p q) * (q * 2 ^ roundExp p q) := by
    nth_rw 1 [hp, ← Nat.sub_add_cancel hexp, pow_add]
    ring
  have hsig : roundSig p q * (q * 2 ^ roundExp p q) = p := by
    obtain ⟨hnear, -⟩ := nearestInt_nearest p _ (m * 2 ^ (j - roundExp p q)) hu
    have : ((m * 2 ^ (j - roundExp p q) : Nat) * (q * 2 ^ roundExp p q : Nat) : Int) = p := by
      exact_mod_cast hunits.symm
    rw [this] at hnear
    unfold roundSig
    zify
    push_cast at hnear
    omega
  refine ⟨hfin, Nat.eq_of_mul_eq_mul_right hq ?_⟩
  rw [lowMag_roundMag hfin, ← hp, Nat.mul_assoc, Nat.mul_comm _ q, hsig]

/-- A float is not rounded. -/
theorem roundMag_lowMag {low q : Nat} (hq : 0 < q) (hlow : low < 255 * 2 ^ 23) : roundMag (lowMag low * q) q = low := by
  have hfin : roundMag (lowMag low * q) q < 255 * 2 ^ 23 := by
    rw [roundMag_finite_iff _ _ hq]
    refine Nat.mul_lt_mul_of_pos_right ?_ hq
    exact Nat.lt_of_le_of_lt (lowMag_le_of_finite hlow) (by decide)
  obtain ⟨hnear, -⟩ := roundMag_nearest hq hfin low
  have hsame : lowMag (roundMag (lowMag low * q) q) * q = lowMag low * q := by
    push_cast at hnear
    zify
    omega
  exact lowMag_strictMono.injective (Nat.eq_of_mul_eq_mul_right hq hsame)

end Sys2Proof.Machine
end

section
/-! SUPPORT. What each float operation and conversion gives for finite operands (`00_scope.md` R12, R13), and the
statements on rounding and on conversions. -/

namespace Sys2Proof.Machine

/-! ### The operations on finite operands -/

theorem fadd_of_finite (site : Site) {a b : F32} (ha : isFinite a = true) (hb : isFinite b = true) :
    fadd site a b =
      if fval a + fval b = 0 then mkF (fsign a && fsign b) 0
      else mkF (decide (fval a + fval b < 0)) (roundMag (fval a + fval b).natAbs 1) := by
  simp [fadd, classes_of_isFinite ha, classes_of_isFinite hb]

theorem fmul_of_finite (site : Site) {a b : F32} (ha : isFinite a = true) (hb : isFinite b = true) :
    fmul site a b = mkF (fsign a != fsign b) (roundMag (fmag a * fmag b) (2 ^ 149)) := by
  simp [fmul, classes_of_isFinite ha, classes_of_isFinite hb]

theorem fdiv_of_finite (site : Site) {a b : F32} (ha : isFinite a = true) (hb : isFinite b = true)
    (h0 : isZero b = false) :
    fdiv site a b = mkF (fsign a != fsign b) (roundMag (fmag a * 2 ^ 149) (fmag b)) := by
  simp [fdiv, classes_of_isFinite ha, classes_of_isFinite hb, h0]

theorem fmag_pos_iff (x : F32) : 0 < fmag x ↔ isZero x = false := by
  rw [Bool.eq_false_iff, ne_eq, isZero_iff, fmag_eq_lowMag]
  constructor
  · intro h h0
    simp [h0] at h
  · intro h
    simpa using lowMag_strictMono (Nat.pos_of_ne_zero h)

theorem withSign_mul (s t : Bool) (a b : Int) : withSign s a * withSign t b = withSign (s != t) (a * b) := by
  cases s <;> cases t <;> simp [withSign]

/-- The rounded magnitude under a sign is nearest to the exact magnitude under that sign. -/
theorem nearestEven_withSign (neg : Bool) {p q : Nat} (hq : 0 < q) :
    NearestEven (withSign neg p) q (mkF neg (roundMag p q)) := by
  refine nearestEven_mkF hq (by cases neg <;> simp [withSign]) ?_
  cases neg <;> simp [withSign]; omega

theorem nearestEven_fadd (site : Site) {a b : F32} (ha : isFinite a = true) (hb : isFinite b = true) :
    NearestEven (fval a + fval b) 1 (fadd site a b) := by
  rw [fadd_of_finite site ha hb]
  split
  next hzero =>
    rw [hzero, ← roundMag_zero 1]
    exact nearestEven_mkF Nat.one_pos rfl (absurd rfl)
  next => exact nearestEven_mkF Nat.one_pos rfl fun _ => rfl

theorem nearestEven_fsub (site : Site) {a b : F32} (ha : isFinite a = true) (hb : isFinite b = true) :
    NearestEven (fval a - fval b) 1 (fsub site a b) := by
  rw [Int.sub_eq_add_neg, ← fval_fnegate]
  exact nearestEven_fadd site ha (by simpa using hb)

theorem nearestEven_fmul (site : Site) {a b : F32} (ha : isFinite a = true) (hb : isFinite b = true) :
    NearestEven (fval a * fval b) (2 ^ 149) (fmul site a b) := by
  have hnum : fval a * fval b = withSign (fsign a != fsign b) (fmag a * fmag b : Nat) := by
    rw [fval_eq_withSign, fval_eq_withSign, withSign_mul, fmag_eq_lowMag, fmag_eq_lowMag, Nat.cast_mul]
  rw [hnum, fmul_of_finite site ha hb]
  exact nearestEven_withSign _ (Nat.two_pow_pos _)

theorem nearestEven_fdiv (site : Site) {a b : F32} (ha : isFinite a = true) (hb : isFinite b = true)
    (h0 : isZero b = false) :
    NearestEven (fval a * 2 ^ 149 * (if fsign b then -1 else 1)) (fmag b) (fdiv site a b) := by
  have hnum : fval a * 2 ^ 149 * (if fsign b then -1 else 1)
      = withSign (fsign a != fsign b) (fmag a * 2 ^ 149 : Nat) := by
    rw [fval_eq_withSign, fmag_eq_lowMag]
    cases fsign a <;> cases fsign b <;> simp [withSign]
  rw [hnum, fdiv_of_finite site ha hb h0]
  exact nearestEven_withSign _ ((fmag_pos_iff b).2 h0)

theorem nearestEven_u2f (n : Nat) : NearestEven (n * 2 ^ 149) 1 (u2f n) := by
  exact_mod_cast nearestEven_withSign false (p := n * 2 ^ 149) Nat.one_pos

theorem nearestEven_i2f (i : Int) : NearestEven (i * 2 ^ 149) 1 (i2f i) := by
  refine nearestEven_mkF Nat.one_pos (by rw [Int.natAbs_mul]; rfl) fun _ => ?_
  rw [decide_eq_decide]
  omega

/-! ### The square root -/

/-- The binary digits of the root, found from the top down. -/
theorem isqrtFrom_spec (n k r : Nat) (hle : r * r ≤ n) (hlt : n < (r + 2 ^ k) * (r + 2 ^ k)) :
    isqrtFrom n k r * isqrtFrom n k r ≤ n ∧ n < (isqrtFrom n k r + 1) * (isqrtFrom n k r + 1) := by
  induction k generalizing r with
  | zero => exact ⟨hle, hlt⟩
  | succ k ih =>
    unfold isqrtFrom
    split
    next hfits =>
      refine ih _ (Nat.le_of_ble_eq_true hfits) ?_
      rwa [Nat.add_assoc, ← Nat.two_mul, ← Nat.pow_succ']
    next hover =>
      refine ih _ hle ?_
      have : ¬ (r + 2 ^ k) * (r + 2 ^ k) ≤ n := fun h => by simp [Nat.ble_eq_true_of_le h] at hover
      omega

theorem isqrt_spec (n : Nat) : isqrt n * isqrt n ≤ n ∧ n < (isqrt n + 1) * (isqrt n + 1) := by
  refine isqrtFrom_spec n _ 0 (Nat.zero_le n) ?_
  rw [Nat.zero_add, ← pow_add]
  exact Nat.lt_of_lt_of_le Nat.lt_log2_self (Nat.pow_le_pow_right (by decide) (by omega))

/-- Twice the root of n, with everything below a half unit folded into one sticky bit. -/
def stickyRoot (n : Nat) : Nat := 2 * isqrt n + if isqrt n * isqrt n = n then 0 else 1

theorem fsqrt_of_pos (site : Site) {x : F32} (hx : isFinite x = true) (h0 : isZero x = false)
    (hs : fsign x = false) : fsqrt site x = mkF false (roundMag (stickyRoot (fmag x * 2 ^ 149)) 2) := by
  simp [fsqrt, stickyRoot, classes_of_isFinite hx, h0, hs]

/-- What is at most twice the root with its sticky bit squares to at most 4n: only the odd value that the sticky bit
makes would not. -/
theorem sq_le_of_le_stickyRoot {n m : Nat} (h : m ≤ stickyRoot n) (heven : m = stickyRoot n → m % 2 = 0) :
    m ^ 2 ≤ 4 * n := by
  obtain ⟨hle, -⟩ := isqrt_spec n
  have hroot : m ≤ 2 * isqrt n := by
    unfold stickyRoot at h heven
    split at h <;> split at heven <;> omega
  nlinarith

/-- What is at least twice the root with its sticky bit squares to at least 4n. -/
theorem le_sq_of_stickyRoot_le {n m : Nat} (h : stickyRoot n ≤ m) (heven : m = stickyRoot n → m % 2 = 0) :
    4 * n ≤ m ^ 2 := by
  obtain ⟨-, hlt⟩ := isqrt_spec n
  unfold stickyRoot at h heven
  split at h
  next hexact => nlinarith
  next hpart =>
    rw [if_neg hpart] at heven
    have hroot : 2 * (isqrt n + 1) ≤ m := by omega
    nlinarith

theorem stickyRoot_ge {n : Nat} (h : 2 ^ 148 ≤ n) : 2 * 2 ^ 74 ≤ stickyRoot n := by
  obtain ⟨-, hlt⟩ := isqrt_spec n
  have hroot : 2 ^ 74 < isqrt n + 1 := Nat.mul_self_lt_mul_self_iff.1 (by omega)
  unfold stickyRoot
  omega

theorem stickyRoot_le {n : Nat} (h : n ≤ 2 ^ 426) : stickyRoot n ≤ 2 * 2 ^ 213 + 1 := by
  obtain ⟨hle, -⟩ := isqrt_spec n
  have hroot : isqrt n ≤ 2 ^ 213 := Nat.mul_self_le_mul_self_iff.1 (by omega)
  unfold stickyRoot
  split <;> omega

theorem lowMag_even_of_ge {low : Nat} (h : 2 ^ 74 ≤ lowMag low) : lowMag low % 2 = 0 := by
  rcases lowMag_lt_or_dvd low 1 with hsmall | hdvd <;> omega

/-- The rounded root of a large n against any other float: their sum is on the right side of twice the root, and even
where it meets it, because near a large root every float is even. -/
theorem rounded_root_sides {n low : Nat} (hn : 2 ^ 148 ≤ n) (hfin : roundMag (stickyRoot n) 2 < 255 * 2 ^ 23) :
    (lowMag low < lowMag (roundMag (stickyRoot n) 2) →
      (lowMag (roundMag (stickyRoot n) 2) + lowMag low) ^ 2 ≤ 4 * n)
    ∧ (lowMag (roundMag (stickyRoot n) 2) < lowMag low →
      4 * n ≤ (lowMag (roundMag (stickyRoot n) 2) + lowMag low) ^ 2) := by
  have hlarge := stickyRoot_ge hn
  obtain ⟨hnear, -⟩ := roundMag_nearest Nat.two_pos hfin low
  obtain ⟨hnear74, -⟩ := roundMag_nearest Nat.two_pos hfin (51 * 2 ^ 23 + 2 ^ 23)
  rw [lowMag_scaled 51 (2 ^ 23) (by decide) (by decide), ← pow_add] at hnear74
  have hroot := lowMag_even_of_ge (low := roundMag (stickyRoot n) 2)
  have hother := lowMag_even_of_ge (low := low)
  generalize lowMag (roundMag (stickyRoot n) 2) = root at *
  generalize lowMag low = other at *
  have heven : root + other = stickyRoot n → (root + other) % 2 = 0 := by
    intro h
    omega
  exact ⟨fun h => sq_le_of_le_stickyRoot (by omega) heven, fun h => le_sq_of_stickyRoot_le (by omega) heven⟩

/-- The root of a finite number that is not negative is finite and on the right side of every midpoint to another
float. -/
theorem fsqrt_midpoints (site : Site) {x : F32} (hx : isFinite x = true) (hs : fsign x = false) :
    isFinite (fsqrt site x) = true ∧ fsign (fsqrt site x) = false
    ∧ ∀ y : F32,
      (fmag y < fmag (fsqrt site x) → (fmag (fsqrt site x) + fmag y) ^ 2 ≤ 4 * (fmag x * 2 ^ 149))
      ∧ (fmag (fsqrt site x) < fmag y → 4 * (fmag x * 2 ^ 149) ≤ (fmag (fsqrt site x) + fmag y) ^ 2) := by
  cases h0 : isZero x with
  | true =>
    have hroot : fsqrt site x = x := by simp [fsqrt, classes_of_isFinite hx, h0]
    have hmag : fmag x = 0 := by
      have := (fmag_pos_iff x).not.2 (by simp [h0])
      omega
    simp [hroot, hx, hs, hmag]
  | false =>
    have hpos := (fmag_pos_iff x).2 h0
    have hle : fmag x ≤ (2 ^ 24 - 1) * 2 ^ 253 := by
      rw [fmag_eq_lowMag]
      exact lowMag_le_of_finite ((isFinite_iff x).1 hx)
    have hfin : roundMag (stickyRoot (fmag x * 2 ^ 149)) 2 < 255 * 2 ^ 23 := by
      rw [roundMag_finite_iff _ _ Nat.two_pos]
      have := stickyRoot_le (n := fmag x * 2 ^ 149) (by omega)
      omega
    have hlow := lowBits_mkF false (roundMag (stickyRoot (fmag x * 2 ^ 149)) 2) (by omega)
    rw [fsqrt_of_pos site hx h0 hs, isFinite_iff, fsign_mkF _ _ (by omega), fmag_eq_lowMag (mkF _ _), hlow]
    refine ⟨hfin, rfl, fun y => ?_⟩
    rw [fmag_eq_lowMag y]
    exact rounded_root_sides (by omega) hfin

/-! ### Conversions to integers -/

theorem fmag_u2f {n : Nat} (h : n < 2 ^ 24) : isFinite (u2f n) = true ∧ fmag (u2f n) = n * 2 ^ 149 := by
  obtain ⟨hfin, hmag⟩ := lowMag_roundMag_of_exact (p := n * 2 ^ 149) Nat.one_pos h (by decide) (Nat.mul_one _).symm
  have hlow := lowBits_mkF false (roundMag (n * 2 ^ 149) 1) (by omega)
  rw [isFinite_iff, fmag_eq_lowMag, u2f, hlow]
  exact ⟨hfin, hmag⟩

theorem fsign_u2f (n : Nat) : fsign (u2f n) = false :=
  fsign_mkF _ _ (by have := roundMag_le (n * 2 ^ 149) 1; omega)

theorem f2u32_of_nan_or_neg {x : F32} (h : isNaN x = true ∨ fsign x = true) : f2u32 x = 0 := by
  rcases h with h | h <;> simp [f2u32, h]

theorem toNat_f2u32_of_finite {x : F32} (hx : isFinite x = true) (hs : fsign x = false) :
    (f2u32 x).toNat = min (2 ^ 32 - 1) (fmag x / 2 ^ 149) := by
  have h : f2u32 x = BitVec.ofNat 32 (min (ftrunc x) (2 ^ 32 - 1)) := by
    simp [f2u32, classes_of_isFinite hx, hs]
  rw [h, BitVec.toNat_ofNat, ftrunc]
  omega

theorem toNat_f2u32_of_inf {x : F32} (hx : isInf x = true) (hs : fsign x = false) :
    (f2u32 x).toNat = 2 ^ 32 - 1 := by
  simp [f2u32, classes_of_isInf hx, hx, hs]

theorem f2i_of_finite {x : F32} (hx : isFinite x = true) :
    f2i x = max (-(2 ^ 31)) (min (2 ^ 31 - 1) (Int.tdiv (fval x) (2 ^ 149))) := by
  have htrunc : Int.tdiv (fval x) (2 ^ 149) = withSign (fsign x) (ftrunc x : Nat) := by
    rw [fval_eq_withSign, ftrunc, fmag_eq_lowMag]
    cases fsign x with
    | false => rfl
    | true => exact Int.neg_tdiv _ _
  rw [htrunc]
  simp only [f2i, classes_of_isFinite hx, withSign, Bool.false_eq_true, if_false]
  split <;> omega

theorem f2i_of_inf {x : F32} (hx : isInf x = true) : f2i x = if fsign x then -(2 ^ 31) else 2 ^ 31 - 1 := by
  simp [f2i, classes_of_isInf hx, hx]

theorem f2u32_u2f {n : Nat} (h : n < 2 ^ 24) : f2u32 (u2f n) = BitVec.ofNat 32 n := by
  obtain ⟨hfin, hmag⟩ := fmag_u2f h
  apply BitVec.eq_of_toNat_eq
  rw [toNat_f2u32_of_finite hfin (fsign_u2f n), hmag, Nat.mul_div_cancel _ (Nat.two_pow_pos 149), BitVec.toNat_ofNat]
  omega

/-- Settles O31: each operation is one rounding of the exact result, and one rounding is nearest. -/
theorem floatOperationsRoundToNearestEven : Obligations.FloatOperationsRoundToNearestEven := by
  refine ⟨fun site a b ha hb => ⟨nearestEven_fadd site ha hb, nearestEven_fsub site ha hb,
    nearestEven_fmul site ha hb, nearestEven_fdiv site ha hb⟩, fun n _ => nearestEven_u2f n, fun site x hx hs => ?_⟩
  obtain ⟨hfin, hsign, hsides⟩ := fsqrt_midpoints site hx hs
  exact ⟨hfin, hsign, fun y _ _ => hsides y⟩

/-- Settles O33, one lemma for each class of operand. -/
theorem conversionsTruncateAndSaturate : Obligations.ConversionsTruncateAndSaturate := by
  refine ⟨fun x => ⟨f2u32_of_nan_or_neg, toNat_f2u32_of_finite, toNat_f2u32_of_inf, fun h => ?_, f2i_of_finite,
    f2i_of_inf⟩, fun n => f2u32_u2f, fun i _ => nearestEven_i2f i⟩
  simp [f2i, h]

end Sys2Proof.Machine
end

section
/-! SUPPORT. NaN, infinities, zeros and the exact cases of the float operations (`00_scope.md` R12,
`93_implementation_defined.md` G1), and the statement on special values. -/

namespace Sys2Proof.Machine

/-! ### NaN results -/

theorem isNaN_quietNaN (site : Site) : isNaN (quietNaN site) = true := (quietNaN_isNaN_quiet site).1

theorem isNaN_mkF {neg : Bool} {low : Nat} (h : low ≤ 255 * 2 ^ 23) : isNaN (mkF neg low) = false := by
  rw [Bool.eq_false_iff, ne_eq, isNaN_iff, lowBits_mkF _ _ (by omega)]
  omega

theorem isInf_mkF {neg : Bool} {low : Nat} (h : low = 255 * 2 ^ 23) : isInf (mkF neg low) = true := by
  rw [isInf_iff, lowBits_mkF _ _ (by omega), h]

theorem isZero_mkF (neg : Bool) : isZero (mkF neg 0) = true := by
  rw [isZero_iff, lowBits_mkF _ _ (by decide)]

/-- A sum is a drawn NaN or a number. -/
theorem fadd_nan_or_number (site : Site) (x y : F32) :
    fadd site x y = quietNaN site ∨ isNaN (fadd site x y) = false := by
  unfold fadd
  cases hx : isNaN x
  case true => simp
  cases hy : isNaN y
  case true => simp
  simp only [Bool.or_self, Bool.false_eq_true, if_false]
  repeat' split
  · exact .inl rfl
  · exact .inr hx
  · exact .inr hy
  · exact .inr (isNaN_mkF (by decide))
  · exact .inr (isNaN_mkF (roundMag_le _ _))

/-- A product is a drawn NaN, or a number with the sign of its operands' signs. -/
theorem fmul_nan_or_number (site : Site) (x y : F32) :
    fmul site x y = quietNaN site ∨ ∃ low ≤ 255 * 2 ^ 23, fmul site x y = mkF (fsign x != fsign y) low := by
  unfold fmul
  repeat' split
  · exact .inl rfl
  · exact .inl rfl
  · exact .inr ⟨_, le_rfl, rfl⟩
  · exact .inr ⟨_, roundMag_le _ _, rfl⟩

/-- A quotient is a drawn NaN, or a number with the sign of its operands' signs. -/
theorem fdiv_nan_or_number (site : Site) (x y : F32) :
    fdiv site x y = quietNaN site ∨ ∃ low ≤ 255 * 2 ^ 23, fdiv site x y = mkF (fsign x != fsign y) low := by
  unfold fdiv
  repeat' split
  · exact .inl rfl
  · exact .inl rfl
  · exact .inr ⟨_, le_rfl, rfl⟩
  · exact .inr ⟨_, Nat.zero_le _, rfl⟩
  · exact .inl rfl
  · exact .inr ⟨_, le_rfl, rfl⟩
  · exact .inr ⟨_, roundMag_le _ _, rfl⟩

/-- A root is a drawn NaN or a number. -/
theorem fsqrt_nan_or_number (site : Site) (x : F32) :
    fsqrt site x = quietNaN site ∨ isNaN (fsqrt site x) = false := by
  unfold fsqrt
  cases hx : isNaN x
  case true => simp
  rw [if_neg Bool.false_ne_true]
  split
  · exact .inr hx
  split
  · exact .inl rfl
  split
  · exact .inr hx
  · exact .inr (isNaN_mkF (roundMag_le _ _))

theorem quiet_of_nan_or_number {site : Site} {r : F32} (h : r = quietNaN site ∨ isNaN r = false)
    (hr : isNaN r = true) : r.getLsbD 22 = true := by
  rcases h with rfl | h
  · exact (quietNaN_isNaN_quiet site).2
  · simp [h] at hr

/-- What is a drawn NaN or a pattern put together by `mkF` from a number's low bits. -/
theorem nan_or_number_of_mkF {site : Site} {r : F32} {neg : Bool}
    (h : r = quietNaN site ∨ ∃ low ≤ 255 * 2 ^ 23, r = mkF neg low) : r = quietNaN site ∨ isNaN r = false :=
  h.imp_right fun ⟨_, hlow, hr⟩ => hr ▸ isNaN_mkF hlow

theorem sign_of_nan_or_mkF {site : Site} {r : F32} {neg : Bool}
    (h : r = quietNaN site ∨ ∃ low ≤ 255 * 2 ^ 23, r = mkF neg low) (hr : isNaN r = false) : fsign r = neg := by
  rcases h with rfl | ⟨low, hlow, rfl⟩
  · simp [isNaN_quietNaN] at hr
  · exact fsign_mkF _ _ (by omega)

/-- Every NaN result is quiet. -/
theorem nan_results_quiet (site : Site) (x y : F32) :
    ∀ r ∈ [fadd site x y, fsub site x y, fmul site x y, fdiv site x y, fsqrt site x],
      isNaN r = true → r.getLsbD 22 = true := by
  intro r hr
  simp only [List.mem_cons, List.not_mem_nil, or_false] at hr
  rcases hr with rfl | rfl | rfl | rfl | rfl
  · exact quiet_of_nan_or_number (fadd_nan_or_number site x y)
  · exact quiet_of_nan_or_number (fadd_nan_or_number site x (fnegate y))
  · exact quiet_of_nan_or_number (nan_or_number_of_mkF (fmul_nan_or_number site x y))
  · exact quiet_of_nan_or_number (nan_or_number_of_mkF (fdiv_nan_or_number site x y))
  · exact quiet_of_nan_or_number (fsqrt_nan_or_number site x)

theorem nan_operand (site : Site) {x y : F32} (h : isNaN x = true ∨ isNaN y = true) :
    flt x y = false ∧ isNaN (fadd site x y) = true ∧ isNaN (fsub site x y) = true
    ∧ isNaN (fmul site x y) = true ∧ isNaN (fdiv site x y) = true := by
  rcases h with h | h <;> simp [flt, fadd, fsub, fmul, fdiv, h, isNaN_quietNaN]

theorem fsqrt_nan (site : Site) {x : F32} (h : isNaN x = true) : isNaN (fsqrt site x) = true := by
  simp [fsqrt, h, isNaN_quietNaN]

theorem fsqrt_negative (site : Site) {x : F32} (hs : fsign x = true) (h0 : isZero x = false) :
    isNaN (fsqrt site x) = true := by
  cases hx : isNaN x <;> simp [fsqrt, hx, hs, h0, isNaN_quietNaN]

/-! ### Infinities and zeros -/

theorem inf_add_finite (site : Site) {x y : F32} (hx : isInf x = true) (hy : isFinite y = true) :
    fadd site x y = x ∧ fsub site x y = x := by
  simp [fsub, fadd, classes_of_isInf hx, classes_of_isFinite hy, hx]

theorem finite_add_inf (site : Site) {x y : F32} (hx : isFinite x = true) (hy : isInf y = true) :
    fadd site x y = y ∧ fsub site x y = fnegate y := by
  simp [fsub, fadd, classes_of_isFinite hx, classes_of_isInf hy, hy]

theorem inf_add_inf (site : Site) {x y : F32} (hx : isInf x = true) (hy : isInf y = true) :
    (fsign x = fsign y → fadd site x y = x ∧ isNaN (fsub site x y) = true)
    ∧ (fsign x ≠ fsign y → isNaN (fadd site x y) = true ∧ fsub site x y = x) := by
  constructor
  · intro h
    simp [fsub, fadd, classes_of_isInf hx, classes_of_isInf hy, hx, hy, h, isNaN_quietNaN]
  · intro h
    have hflip : fsign x = !fsign y := Bool.eq_not.2 h
    simp [fsub, fadd, classes_of_isInf hx, classes_of_isInf hy, hx, hy, hflip, isNaN_quietNaN]

theorem inf_mul_div (site : Site) {x y : F32} (hx : isInf x = true) (hy : isNaN y = false) :
    (if isZero y then isNaN (fmul site x y) = true ∧ isNaN (fmul site y x) = true
      else isInf (fmul site x y) = true ∧ isInf (fmul site y x) = true)
    ∧ (if isInf y then isNaN (fdiv site x y) = true else isInf (fdiv site x y) = true) := by
  constructor
  · cases h0 : isZero y <;>
      simp [fmul, classes_of_isInf hx, hx, hy, h0, isNaN_quietNaN, isInf_mkF]
  · cases hi : isInf y <;>
      simp [fdiv, classes_of_isInf hx, hx, hy, hi, isNaN_quietNaN, isInf_mkF]

theorem finite_div_inf (site : Site) {x y : F32} (hx : isFinite x = true) (hy : isInf y = true) :
    isZero (fdiv site x y) = true := by
  simp [fdiv, classes_of_isFinite hx, classes_of_isInf hy, hy, isZero_mkF]

theorem finite_div_zero (site : Site) {x y : F32} (hx : isFinite x = true) (hy : isZero y = true) :
    if isZero x then isNaN (fdiv site x y) = true else isInf (fdiv site x y) = true := by
  cases h0 : isZero x <;>
    simp [fdiv, classes_of_isFinite hx, classes_of_isFinite (isFinite_of_isZero hy), hy, h0, isNaN_quietNaN,
      isInf_mkF]

theorem fsqrt_of_zero_or_inf (site : Site) {x : F32} (h : isZero x = true ∨ (isInf x = true ∧ fsign x = false)) :
    fsqrt site x = x := by
  rcases h with h0 | ⟨hi, hs⟩
  · simp [fsqrt, classes_of_isFinite (isFinite_of_isZero h0), h0]
  · simp [fsqrt, classes_of_isInf hi, hi, hs]

theorem fadd_exact_zero (site : Site) {x y : F32} (hx : isFinite x = true) (hy : isFinite y = true)
    (h : fval x + fval y = 0) : fadd site x y = if fsign x && fsign y then 0x80000000 else 0 := by
  rw [fadd_of_finite site hx hy, if_pos h]
  cases fsign x && fsign y <;> rfl

theorem fsub_exact_zero (site : Site) {x y : F32} (hx : isFinite x = true) (hy : isFinite y = true)
    (h : fval x - fval y = 0) : fsub site x y = if fsign x && !fsign y then 0x80000000 else 0 := by
  rw [fsub, fadd_exact_zero site hx (by simpa using hy) (by rw [fval_fnegate]; omega), fsign_fnegate]

/-! ### Identities -/

/-- A finite number survives its own rounding. -/
theorem mkF_roundMag_fmag {x : F32} (hx : isFinite x = true) {q : Nat} (hq : 0 < q) :
    mkF (fsign x) (roundMag (fmag x * q) q) = x := by
  rw [fmag_eq_lowMag, roundMag_lowMag hq ((isFinite_iff x).1 hx), mkF_fsign_lowBits]

/-- A number whose value is zero is a zero of either sign. -/
theorem isZero_of_fval_zero {x : F32} (h : fval x = 0) : isZero x = true := by
  by_contra h0
  have := (fmag_pos_iff x).2 (Bool.eq_false_iff.2 h0)
  have := natAbs_fval x
  omega

theorem decide_fval_neg {x : F32} (h : fval x ≠ 0) : decide (fval x < 0) = fsign x := by
  unfold fval at *
  cases hs : fsign x <;> simp [hs] at *; omega

theorem fadd_zero (site : Site) {x : F32} (hn : isNaN x = false) (hz : x ≠ 0x80000000) :
    fadd site x F32.zero = x := by
  rcases isFinite_or_isInf hn with hx | hx
  case inr => exact (inf_add_finite site hx rfl).1
  have hzero : fval F32.zero = 0 ∧ fsign F32.zero = false := by decide
  obtain ⟨hval, hpos⟩ := hzero
  rw [fadd_of_finite site hx rfl, hval, Int.add_zero, hpos, Bool.and_false]
  split
  next h0 =>
    have hlow := (isZero_iff x).1 (isZero_of_fval_zero h0)
    have hx0 := mkF_fsign_lowBits x
    rw [hlow] at hx0
    cases hs : fsign x with
    | false => rwa [hs] at hx0
    | true =>
      rw [hs] at hx0
      exact absurd hx0.symm hz
  next h0 =>
    rw [decide_fval_neg h0, natAbs_fval]
    simpa using mkF_roundMag_fmag hx Nat.one_pos

theorem fmul_one (site : Site) {x : F32} (hn : isNaN x = false) : fmul site x F32.one = x := by
  have hone : isFinite F32.one = true ∧ fsign F32.one = false ∧ fmag F32.one = 2 ^ 149 := by decide
  obtain ⟨hfin, hsign, hmag⟩ := hone
  rcases isFinite_or_isInf hn with hx | hx
  · rw [fmul_of_finite site hx hfin, hsign, hmag, Bool.bne_false]
    exact mkF_roundMag_fmag hx (Nat.two_pow_pos _)
  · have hlow := (isInf_iff x).1 hx
    have hone : isNaN F32.one = false ∧ isZero F32.one = false := by decide
    nth_rw 2 [← mkF_fsign_lowBits x]
    simp [fmul, hlow, hone, hsign, classes_of_isInf hx, hx]

theorem fmul_zero (site : Site) {x : F32} (hx : isFinite x = true) : isZero (fmul site x F32.zero) = true := by
  have hzero : isFinite F32.zero = true ∧ fmag F32.zero = 0 := by decide
  obtain ⟨hfin, hmag⟩ := hzero
  rw [fmul_of_finite site hx hfin, hmag, Nat.mul_zero, roundMag_zero, isZero_mkF]

/-- Settles O32, one lemma for each kind of special value. -/
theorem floatSpecialValuesAndIdentities : Obligations.FloatSpecialValuesAndIdentities := by
  intro site x y
  exact ⟨fadd_zero site, fmul_one site, fmul_zero site, fsqrt_negative site, nan_operand site, fsqrt_nan site,
    nan_results_quiet site x y, inf_add_finite site, finite_add_inf site, inf_add_inf site, inf_mul_div site,
    finite_div_inf site, finite_div_zero site, fsqrt_of_zero_or_inf site,
    sign_of_nan_or_mkF (fmul_nan_or_number site x y), sign_of_nan_or_mkF (fdiv_nan_or_number site x y),
    fun hx hy => ⟨fadd_exact_zero site hx hy, fsub_exact_zero site hx hy⟩⟩

end Sys2Proof.Machine
end

section
/-! SUPPORT. Every command answers a next state (`60_exceptions.md` R306, R319), and the statement on refusals. -/

namespace Sys2Proof.Machine

/-- The outcome is a next state. -/
def answers (o : Host.Outcome State Fault Refusal) : Prop := ∃ t, o = .next t

theorem answers_next (t : State) : answers (.next t) := ⟨t, rfl⟩

theorem answers_respond (s : State) (payload : Word) : answers (respond s payload) := ⟨_, rfl⟩

theorem answers_raise (s : State) (e : Err) (info : Word) : answers (raise s e info) := ⟨_, rfl⟩

/-- A checked command answers when its body does: a check that fails is an answer too. -/
theorem answers_checked (s : State) (checks : List Check) {body : Host.Outcome State Fault Refusal}
    (h : answers body) : answers (checked s checks body) := by
  rcases checked_cases s checks body with ⟨hbody, -⟩ | ⟨e, info, -, hraised⟩
  · rwa [hbody]
  · exact ⟨_, hraised⟩

theorem answers_ite (p : Prop) [Decidable p] {a b : Host.Outcome State Fault Refusal} (ha : answers a)
    (hb : answers b) : answers (if p then a else b) := by
  split
  · exact ha
  · exact hb

theorem answers_exec (i : Instr) (s : State) : answers (exec i s) := by
  cases i with
  | nop => exact answers_respond _ _
  | init => exact answers_checked _ _ (answers_respond _ _)
  | process => exact answers_checked _ _ (answers_respond _ _)
  | setp => exact answers_checked _ _ (answers_ite _ (answers_respond _ _) (answers_respond _ _))
  | setps => exact answers_checked _ _ (answers_ite _ (answers_respond _ _) (answers_respond _ _))
  | von => exact answers_checked _ _ (answers_respond _ _)
  | voff => exact answers_checked _ _ (answers_ite _ (answers_respond _ _) (answers_respond _ _))
  | move => exact answers_checked _ _ (answers_ite _ (answers_respond _ _) (answers_respond _ _))
  | reset => exact answers_checked _ _ (answers_respond _ _)
  | replace => exact answers_checked _ _ (answers_respond _ _)
  | bload => exact answers_checked _ _ (answers_respond _ _)
  | stat => exact answers_ite _ (answers_checked _ _ (answers_respond _ _)) (answers_respond _ _)

theorem step_of_illegalBuild {s : State} (h : s.cfg.legal = false) : step s = .refused .illegalBuild := by
  simp [step, h]

theorem answers_step {s : State} (h : s.cfg.legal = true) : answers (step s) := by
  unfold step
  rw [if_pos h]
  cases nextCommand s with
  | wait => exact answers_next s
  | illegal w0 len => exact answers_raise _ _ _
  | instr i len => exact answers_exec i _

/-- Settles O9: the refusal is the one branch of a step that is no answer. -/
theorem onlyAnIllegalBuildStopsTheBlock : Obligations.OnlyAnIllegalBuildStopsTheBlock :=
  fun _ => ⟨step_of_illegalBuild, answers_step⟩

end Sys2Proof.Machine
end

section
/-! SUPPORT. What holds of every next state of an outcome: one rule for each way a command ends (`60_exceptions.md`
R302 to R305), and which commands write which state (`10_state.md` R32 to R35, `20_memory.md` R71). -/

namespace Sys2Proof.Machine

/-! ### Rules for outcomes -/

/-- Every next state of an outcome has the property. -/
def ensures (o : Host.Outcome State Fault Refusal) (P : State → Prop) : Prop := ∀ t, o = .next t → P t

theorem ensures_next {P : State → Prop} {t : State} (h : P t) : ensures (.next t) P := by
  rintro _ ⟨⟩
  exact h

theorem ensures_respond {P : State → Prop} {s : State} {payload : Word} (h : P (answeredOk s payload)) :
    ensures (respond s payload) P :=
  ensures_next h

/-- A checked command ends with a failed check or, every check passed, as its body does. -/
theorem ensures_checked {P : State → Prop} {s : State} {checks : List Check}
    {body : Host.Outcome State Fault Refusal} (hraised : ∀ e info, P (raised s e info))
    (hbody : (∀ ch ∈ checks, ch.1 = false) → ensures body P) : ensures (checked s checks body) P := by
  rcases checked_cases s checks body with ⟨heq, hpass⟩ | ⟨e, info, -, heq⟩
  · rw [heq]
    exact hbody hpass
  · rw [heq]
    exact ensures_next (hraised e info)

theorem ensures_ite {P : State → Prop} {p : Prop} [Decidable p] {a b : Host.Outcome State Fault Refusal}
    (ha : p → ensures a P) (hb : ¬p → ensures b P) : ensures (if p then a else b) P := by
  split
  next hp => exact ha hp
  next hp => exact hb hp

/-! ### The two answers -/

/-- A failed command leaves the state that the statements call `failed` (`60_exceptions.md` R305). -/
theorem raised_eq_failed (s : State) (e : Err) (info : Word) : raised s e info = failed s (errCode e) info := by
  have hstatus : rsp0 (errCode e) = BitVec.ofNat 32 (errCode e) <<< 24 := by cases e <;> decide
  rw [raised, failed, hstatus, errstatSet]

theorem errCode_bounds (e : Err) : 1 ≤ errCode e ∧ errCode e ≤ 7 := by cases e <;> decide

/-! ### The writers of each piece of state -/

/-- The change from s to t touches no state but what command i writes, a clause for each piece of state; a command
states in its proof only the clauses of what it does write. -/
structure WritesItsOwn (i : Instr) (s t : State) : Prop where
  cfg : t.cfg = s.cfg := by rfl
  importMem : t.importMem = s.importMem := by rfl
  cmdPort : t.cmdPort = s.cmdPort := by rfl
  registers : (∀ rate maxBlock clusters, i ≠ .init rate maxBlock clusters) →
    t.initialized = s.initialized ∧ t.sampleRate = s.sampleRate ∧ t.maxBlock = s.maxBlock
    ∧ t.numClusters = s.numClusters := by exact fun _ => ⟨rfl, rfl, rfl, rfl⟩
  errstat : (∀ rate maxBlock clusters, i ≠ .init rate maxBlock clusters) →
    t.errstat = s.errstat ∨ ∃ e info, t = raised s e info := by exact fun _ => .inl rfl
  activeBank : (∀ slot, i ≠ .replace slot) → t.activeBank = s.activeBank := by exact fun _ => rfl
  banks : (∀ slot src count, i ≠ .bload slot src count) → t.banks = s.banks := by exact fun _ => rfl
  outMem : (∀ c mask n out, i ≠ .process c mask n out) → t.outMem = s.outMem := by exact fun _ => rfl
  pool : (i = .nop ∨ (∃ slot, i = .replace slot) ∨ (∃ slot src count, i = .bload slot src count)
    ∨ ∃ reg c slot, i = .stat reg c slot) → t.clusters = s.clusters := by exact fun _ => rfl

/-- Every command keeps to the state it may write (`10_state.md` R32 to R35, R45; `20_memory.md` R71). -/
theorem exec_writesItsOwn (i : Instr) (s : State) : ensures (exec i s) (WritesItsOwn i s) := by
  have fails : ∀ e info, WritesItsOwn i s (raised s e info) := fun e info =>
    { errstat := fun _ => .inr ⟨e, info, rfl⟩ }
  have onlyAnswers : ∀ payload, WritesItsOwn i s (answeredOk s payload) := fun payload => {}
  cases i with
  | nop => exact ensures_respond (onlyAnswers _)
  | init =>
    exact ensures_checked fails fun _ => ensures_respond
      { registers := fun h => absurd rfl (h _ _ _), errstat := fun h => absurd rfl (h _ _ _), pool := by simp }
  | process =>
    exact ensures_checked fails fun _ => ensures_respond
      { outMem := fun h => absurd rfl (h _ _ _ _), pool := by simp }
  | setp =>
    exact ensures_checked fails fun _ => ensures_ite (fun _ => ensures_respond (onlyAnswers _))
      (fun _ => ensures_respond { pool := by simp })
  | setps =>
    exact ensures_checked fails fun _ => ensures_ite (fun _ => ensures_respond (onlyAnswers _))
      (fun _ => ensures_respond { pool := by simp })
  | von => exact ensures_checked fails fun _ => ensures_respond { pool := by simp }
  | voff =>
    exact ensures_checked fails fun _ => ensures_ite (fun _ => ensures_respond { pool := by simp })
      (fun _ => ensures_respond (onlyAnswers _))
  | move =>
    exact ensures_checked fails fun _ => ensures_ite (fun _ => ensures_respond (onlyAnswers _))
      (fun _ => ensures_respond { pool := by simp })
  | reset => exact ensures_checked fails fun _ => ensures_respond { pool := by simp }
  | replace =>
    exact ensures_checked fails fun _ => ensures_respond { activeBank := fun h => absurd rfl (h _) }
  | bload =>
    exact ensures_checked fails fun _ => ensures_respond { banks := fun h => absurd rfl (h _ _ _) }
  | stat =>
    exact ensures_ite (fun _ => ensures_checked fails fun _ => ensures_respond (onlyAnswers _))
      (fun _ => ensures_respond (onlyAnswers _))

/-- Settles O12: the clauses of `WritesItsOwn`, a failed command by its status. -/
theorem eachPieceOfStateHasItsWriters : Obligations.EachPieceOfStateHasItsWriters := by
  intro i s t hexec
  obtain ⟨hcfg, himport, hcmd, hregisters, herrstat, hactive, hbanks, hout, hpool⟩ := exec_writesItsOwn i s t hexec
  refine ⟨hcfg, himport, hcmd, fun hinit => ?_, hactive, hbanks, hout, hpool⟩
  obtain ⟨hinitialized, hrate, hblock, hclusters⟩ := hregisters hinit
  refine ⟨hinitialized, hrate, hblock, hclusters, (herrstat hinit).imp_right ?_⟩
  rintro ⟨e, info, rfl⟩
  exact ⟨errCode e, info, (errCode_bounds e).1, (errCode_bounds e).2, raised_eq_failed s e info⟩

/-- Settles O14: each power-on value is a field of the power-on state, and the reset state has drawn nothing. -/
theorem powerOnValues : Obligations.PowerOnValues := by
  refine ⟨fun s => ⟨rfl, rfl, rfl, rfl, rfl, rfl, rfl, rfl, ?_, fun b hb => ?_, fun a => ⟨rfl, rfl⟩⟩, rfl⟩
  · simp
  · rw [hostPowerOn_banks] at hb
    rw [List.eq_of_mem_replicate hb]
    exact ⟨rfl, rfl⟩

end Sys2Proof.Machine
end

section
/-! SUPPORT. The invariant with its clauses named (`10_state.md` R32 to R45), one view for each check of Safety.lean,
and the masks of a voice (`43_unison_voice.md` R205). -/

namespace Sys2Proof.Machine

/-! ### The checks as named clauses -/

/-- The clauses of `Osc.ok`. -/
structure Osc.Sound (k : Config) (o : Osc) : Prop where
  phase : o.phase.length = k.e
  pinc : o.pinc.length = k.e
  frame : o.frame.length = k.e
  omask : maskLegal k.v o.omask = true

theorem Osc.ok_iff {k : Config} {o : Osc} : o.ok k = true ↔ o.Sound k := by
  simp only [Osc.ok, Bool.and_eq_true, beq_iff_eq]
  exact ⟨fun ⟨⟨⟨hphase, hpinc⟩, hframe⟩, hmask⟩ => ⟨hphase, hpinc, hframe, hmask⟩,
    fun h => ⟨⟨⟨h.phase, h.pinc⟩, h.frame⟩, h.omask⟩⟩

/-- The clauses of `Voice.ok`, the oscillators by position. -/
structure Voice.Sound (k : Config) (active : Bool) (uv : Voice) : Prop where
  osc_length : uv.osc.length = k.k
  one_le_nUni : 1 ≤ uv.nUni
  nUni_le : uv.nUni ≤ k.maxUnison
  nOsc : uv.nOsc = packGroups k uv.nUni
  tailMask : uv.tailMask = packMask k uv.nUni (packGroups k uv.nUni - 1)
  osc : ∀ (g : Nat) (o : Osc), uv.osc[g]? = some o → o.Sound k ∧ o.omask = if active then packMask k uv.nUni g else 0

/-- A test of every position of a list, read with a default, is a test of every element. -/
theorem forall_getD_iff {α : Type} {xs : List α} {n : Nat} (hlen : xs.length = n) (d : α) (P : Nat → α → Prop) :
    (∀ i < n, P i (xs.getD i d)) ↔ ∀ i x, xs[i]? = some x → P i x := by
  subst hlen
  constructor
  · intro h i x hx
    obtain ⟨hi, rfl⟩ := List.getElem?_eq_some_iff.1 hx
    simpa [hi] using h i hi
  · intro h i hi
    exact h i _ (by simp [hi])

theorem Voice.ok_iff {k : Config} {active : Bool} {uv : Voice} : uv.ok k active = true ↔ uv.Sound k active := by
  simp only [Voice.ok, Bool.and_eq_true, beq_iff_eq, decide_eq_true_eq, List.all_eq_true, List.mem_range, Osc.ok_iff]
  constructor
  · rintro ⟨⟨⟨⟨⟨hlen, hpos⟩, hle⟩, hn⟩, htail⟩, hosc⟩
    exact ⟨hlen, hpos, hle, hn, htail, (forall_getD_iff hlen default _).1 hosc⟩
  · intro h
    exact ⟨⟨⟨⟨⟨h.osc_length, h.one_le_nUni⟩, h.nUni_le⟩, h.nOsc⟩, h.tailMask⟩,
      (forall_getD_iff h.osc_length default _).2 h.osc⟩

/-- The clauses of `Cluster.ok`, the voices by lane. -/
structure Cluster.Sound (k : Config) (cl : Cluster) : Prop where
  params_length : cl.params.length = 9
  param_length : ∀ c ∈ cl.params, c.length = k.e
  basePinc : cl.basePinc.length = k.e
  wn : cl.wn.length = k.e
  wf : cl.wf.length = k.e
  laneActive : maskLegal k.v cl.laneActive = true
  voices_length : cl.voices.length = k.v
  voice : ∀ (l : Nat) (uv : Voice), cl.voices[l]? = some uv → uv.Sound k (maskBit cl.laneActive l)

theorem Cluster.ok_iff {k : Config} {cl : Cluster} : cl.ok k = true ↔ cl.Sound k := by
  simp only [Cluster.ok, Bool.and_eq_true, beq_iff_eq, List.all_eq_true, List.mem_range, Voice.ok_iff, Cluster.voice]
  constructor
  · rintro ⟨⟨⟨⟨⟨⟨⟨hparams, hparam⟩, hbase⟩, hwn⟩, hwf⟩, hactive⟩, hvoices⟩, hvoice⟩
    exact ⟨hparams, hparam, hbase, hwn, hwf, hactive, hvoices, (forall_getD_iff hvoices default _).1 hvoice⟩
  · intro h
    exact ⟨⟨⟨⟨⟨⟨⟨h.params_length, h.param_length⟩, h.basePinc⟩, h.wn⟩, h.wf⟩, h.laneActive⟩, h.voices_length⟩,
      (forall_getD_iff h.voices_length default _).2 h.voice⟩

/-- The clauses of `State.inv`, the active slot by its clause of `State.bankOk`. -/
structure State.Sound (s : State) : Prop where
  legal : s.cfg.legal = true
  cfgOk : s.cfgOk = true
  pool_length : s.clusters.length = s.numClusters.toNat
  pool : ∀ cl ∈ s.clusters, cl.Sound s.cfg
  banks_length : s.banks.length = s.cfg.numBankSlots
  bank : ∀ b ∈ s.banks, b.ok s.cfg = true
  activeBank : s.activeBank.valid = true →
    s.activeBank.slot.toNat < s.cfg.numBankSlots ∧ (s.bank s.activeBank.slot.toNat).valid = true
  errstat : s.errstat.getLsbD 0 = false
  importMem : Memory.wf s.cfg.importSize s.importMem = true
  outMem : Memory.wf s.cfg.outSize s.outMem = true
  rspPort : s.rspPort.length % 2 = 0

theorem State.inv_iff {s : State} : s.inv = true ↔ s.Sound := by
  simp only [State.inv, State.bankOk, Bool.and_eq_true, Bool.or_eq_true, Bool.not_eq_true', beq_iff_eq,
    decide_eq_true_eq, List.all_eq_true, Cluster.ok_iff]
  constructor
  · rintro ⟨⟨⟨⟨⟨⟨⟨⟨hlegal, hcfg⟩, hlen⟩, hpool⟩, ⟨hbanks, hbank⟩, hactive⟩, herr⟩, himport⟩, hout⟩, hrsp⟩
    exact ⟨hlegal, hcfg, hlen, hpool, hbanks, hbank, fun hvalid => hactive.resolve_left (by simp [hvalid]), herr,
      himport, hout, hrsp⟩
  · intro h
    refine ⟨⟨⟨⟨⟨⟨⟨⟨h.legal, h.cfgOk⟩, h.pool_length⟩, h.pool⟩, ⟨h.banks_length, h.bank⟩, ?_⟩, h.errstat⟩, h.importMem⟩,
      h.outMem⟩, h.rspPort⟩
    cases hvalid : s.activeBank.valid with
    | false => exact .inl rfl
    | true => exact .inr (h.activeBank hvalid)

/-! ### A legal build -/

theorem v_of_legal {k : Config} (h : k.legal = true) : k.v = 1 ∨ k.v = 2 ∨ k.v = 4 ∨ k.v = 8 := by
  simp only [Config.legal, Bool.and_eq_true, Bool.or_eq_true, beq_iff_eq] at h
  tauto

theorem maxUnison_pos_of_legal {k : Config} (h : k.legal = true) : 1 ≤ k.maxUnison := by
  simp only [Config.legal, Bool.and_eq_true, decide_eq_true_eq] at h
  tauto

theorem v_le_of_legal {k : Config} (h : k.legal = true) : k.v ≤ 8 := by
  have := v_of_legal h
  omega

/-! ### Lane masks -/

theorem maskLegal_iff {v : Nat} {m : Mask} : maskLegal v m = true ↔ m.toNat < 2 ^ v := by
  simp [maskLegal]

@[simp] theorem maskLegal_zero (v : Nat) : maskLegal v 0 = true := by
  simp [maskLegal]

/-- A mask made of a number below 2^V has no bit at or above V. -/
theorem maskLegal_ofNat {v n : Nat} (h : n < 2 ^ v) : maskLegal v (BitVec.ofNat 8 n) = true := by
  rw [maskLegal_iff, BitVec.toNat_ofNat]
  exact Nat.lt_of_le_of_lt (Nat.mod_le _ _) h

/-- The masks of `PACK` have no bit at or above V. -/
theorem maskLegal_packMask (k : Config) (n g : Nat) : maskLegal k.v (packMask k n g) = true := by
  have hv := Nat.two_pow_pos k.v
  have htail := Nat.two_pow_pos (k.v - packTail k n)
  unfold packMask
  split
  · exact maskLegal_ofNat (by omega)
  split
  · exact maskLegal_ofNat (by omega)
  · exact maskLegal_zero _

/-- Setting or clearing the bit of a lane below V keeps a mask legal. -/
theorem maskLegal_setMaskBit {v l : Nat} {m : Mask} (hl : l < v) (hm : maskLegal v m = true) (b : Bool) :
    maskLegal v (setMaskBit m l b) = true := by
  rw [maskLegal_iff] at hm ⊢
  have hbit := maskLegal_iff.1 (maskLegal_ofNat (Nat.pow_lt_pow_right (by decide : 1 < 2) hl))
  cases b with
  | true =>
    rw [setMaskBit, if_pos rfl, BitVec.toNat_or]
    exact Nat.or_lt_two_pow hm hbit
  | false =>
    rw [setMaskBit, if_neg Bool.false_ne_true, BitVec.toNat_and]
    exact Nat.lt_of_le_of_lt Nat.and_le_left hm

end Sys2Proof.Machine
end

section
/-! SUPPORT. The operations on oscillators, voices and clusters keep the clauses of the invariant
(`42_oscillator.md` R185 to R190, `43_unison_voice.md` R209 to R212, `44_cluster.md` R236 to R262). -/

namespace Sys2Proof.Machine

/-! ### Oscillators -/

theorem oscSetInst_sound {k : Config} {o : Osc} (h : o.Sound k) (tp tf : Nat → F32) (on : Nat → Bool) :
    (oscSetInst o tp tf on).Sound k :=
  ⟨h.phase, by simpa [oscSetInst] using h.pinc, by simpa [oscSetInst] using h.frame, h.omask⟩

theorem oscSetSmooth_sound {k : Config} {o : Osc} (h : o.Sound k) (site : Site) (tp tf : Nat → F32) (t : F32)
    (on : Nat → Bool) : (oscSetSmooth site o tp tf t on).Sound k :=
  ⟨h.phase, by simpa [oscSetSmooth] using h.pinc, by simpa [oscSetSmooth] using h.frame, h.omask⟩

theorem oscRemask_sound {k : Config} {o : Osc} (h : o.Sound k) {mask : Mask} (hmask : maskLegal k.v mask = true)
    (r : Nat → F32) (draws : Nat) : (oscRemask o mask r draws).1.Sound k :=
  ⟨by simpa [oscRemask] using h.phase, h.pinc, h.frame, hmask⟩

theorem oscReseed_sound {k : Config} {o : Osc} (h : o.Sound k) (r : Nat → F32) (draws : Nat) :
    (oscReseed o r draws).1.Sound k :=
  ⟨by simpa [oscReseed] using h.phase, h.pinc, h.frame, h.omask⟩

theorem oscStep_sound {k : Config} {o : Osc} (h : o.Sound k) (site : Site) (bank : BankSlot) :
    (oscStep k site bank o).1.Sound k :=
  ⟨by simpa [oscStep] using h.phase, by simpa [oscStep] using h.pinc, by simpa [oscStep] using h.frame, h.omask⟩

/-- A configured group has the mask of `PACK`, whichever form of the smoothers (`43_unison_voice.md` R209). -/
theorem configGroup_sound {k : Config} {o : Osc} (h : o.Sound k) (site : Site) (cl : Cluster) (l n : Nat)
    (ramp : Option F32) (g draws : Nat) :
    (configGroup k site cl l n ramp g o draws).1.Sound k
    ∧ (configGroup k site cl l n ramp g o draws).1.omask = packMask k n g := by
  have hremask := fun r => oscRemask_sound h (maskLegal_packMask k n g) r draws
  cases ramp with
  | none => exact ⟨oscSetInst_sound (hremask _) _ _ _, rfl⟩
  | some t => exact ⟨oscSetSmooth_sound (oscSetInst_sound (hremask _) _ _ _) _ _ _ _ _, rfl⟩

/-! ### Voices -/

/-- The unison count is in 1..MAX_UNISON (`43_unison_voice.md` R202). -/
theorem unisonCount_bounds {k : Config} (hk : k.legal = true) (x : F32) :
    1 ≤ unisonCount k x ∧ unisonCount k x ≤ k.maxUnison := by
  have := maxUnison_pos_of_legal hk
  unfold unisonCount clampi
  omega

/-- Element j of a visit comes from element j of the list. -/
theorem exists_of_mapAcc_getElem? {α σ : Type} {f : Nat → α → σ → α × σ} {xs : List α} {acc : σ} {j : Nat} {y : α}
    (h : (mapAcc f 0 xs acc).1[j]? = some y) : ∃ x acc', xs[j]? = some x ∧ (f j x acc').1 = y := by
  rw [mapAcc_getElem?, Option.map_eq_some_iff] at h
  obtain ⟨x, hx, hy⟩ := h
  exact ⟨x, _, hx, by simpa using hy⟩

/-- A visit of the oscillators that keeps each sound and under its mask keeps the voice sound. -/
theorem voice_mapAcc_sound {k : Config} {active : Bool} {uv : Voice} (h : uv.Sound k active) {σ : Type}
    {f : Nat → Osc → σ → Osc × σ} (acc : σ)
    (hf : ∀ g o a, o.Sound k → (f g o a).1.Sound k ∧ (f g o a).1.omask = o.omask) :
    ({ uv with osc := (mapAcc f 0 uv.osc acc).1 } : Voice).Sound k active := by
  refine { h with osc_length := by simpa using h.osc_length, osc := fun g o' ho' => ?_ }
  obtain ⟨o, a, ho, rfl⟩ := exists_of_mapAcc_getElem? ho'
  obtain ⟨hsound, hmask⟩ := h.osc g o ho
  obtain ⟨hsound', hmask'⟩ := hf g o a hsound
  exact ⟨hsound', hmask'.trans hmask⟩

/-- A voice with its masks cleared is a sound silent voice (`44_cluster.md` R245, R249). -/
theorem silence_sound {k : Config} {active : Bool} {uv : Voice} (h : uv.Sound k active) :
    (silence uv).Sound k false := by
  refine { h with osc_length := by simpa [silence] using h.osc_length, osc := fun g o' ho' => ?_ }
  simp only [silence, List.getElem?_map, Option.map_eq_some_iff] at ho'
  obtain ⟨o, ho, rfl⟩ := ho'
  exact ⟨{ (h.osc g o ho).1 with omask := maskLegal_zero _ }, rfl⟩

/-- Configuring any sound voice gives a sound voice of an active lane (`43_unison_voice.md` R209). -/
theorem uvConfig_sound {k : Config} (hk : k.legal = true) {active : Bool} {uv : Voice} (h : uv.Sound k active)
    (site : Site) (cl : Cluster) (l : Nat) (ramp : Option F32) (draws : Nat) :
    (uvConfig k site cl l ramp uv draws).1.Sound k true := by
  obtain ⟨hpos, hle⟩ := unisonCount_bounds hk (cl.cur pUnison (2 * l))
  refine ⟨by simpa [uvConfig] using h.osc_length, hpos, hle, rfl, rfl, fun g o' ho' => ?_⟩
  obtain ⟨o, d, ho, rfl⟩ := exists_of_mapAcc_getElem? ho'
  exact configGroup_sound (h.osc g o ho).1 _ _ _ _ _ _ _

theorem reseedVoice_sound {k : Config} {active : Bool} {uv : Voice} (h : uv.Sound k active) (cl : Cluster)
    (l draws : Nat) : (reseedVoice cl l uv draws).1.Sound k active :=
  voice_mapAcc_sound h _ fun _ _ _ ho => ⟨oscReseed_sound ho _ _, rfl⟩

theorem uvProcess_sound {k : Config} {active : Bool} {uv : Voice} (h : uv.Sound k active) (site : Site)
    (bank : BankSlot) : (uvProcess k site bank uv).1.Sound k active := by
  refine voice_mapAcc_sound h _ fun g o acc ho => ?_
  split
  · exact ⟨oscStep_sound ho _ bank, rfl⟩
  · exact ⟨ho, rfl⟩

/-! ### Clusters -/

/-- New voices, each sound for its lane, keep the cluster sound. -/
theorem cluster_voices_sound {k : Config} {cl : Cluster} (h : cl.Sound k) {voices : List Voice}
    (hlen : voices.length = cl.voices.length)
    (hvoice : ∀ (l : Nat) (uv : Voice), voices[l]? = some uv → uv.Sound k (maskBit cl.laneActive l)) :
    ({ cl with voices := voices } : Cluster).Sound k :=
  { h with voices_length := hlen.trans h.voices_length, voice := hvoice }

/-- A visit of the voices that keeps each sound for its lane keeps the cluster sound. -/
theorem cluster_mapAcc_sound {k : Config} {cl : Cluster} (h : cl.Sound k) {σ : Type}
    {f : Nat → Voice → σ → Voice × σ} (acc : σ)
    (hf : ∀ l uv a, uv.Sound k (maskBit cl.laneActive l) → (f l uv a).1.Sound k (maskBit cl.laneActive l)) :
    ({ cl with voices := (mapAcc f 0 cl.voices acc).1 } : Cluster).Sound k := by
  refine cluster_voices_sound h (by simp) fun l uv' huv' => ?_
  obtain ⟨uv, a, huv, rfl⟩ := exists_of_mapAcc_getElem? huv'
  exact hf l uv a (h.voice l uv huv)

/-- Lane ℓ gets a voice and its `lane_active` bit together. -/
theorem cluster_setLane_sound {k : Config} (hk : k.legal = true) {cl : Cluster} (h : cl.Sound k) {l : Nat}
    (hl : l < k.v) {active : Bool} {uv : Voice} (huv : uv.Sound k active) :
    ({ cl with voices := cl.voices.set l uv, laneActive := setMaskBit cl.laneActive l active } : Cluster).Sound k := by
  have hl8 : l < 8 := Nat.lt_of_lt_of_le hl (v_le_of_legal hk)
  refine { h with laneActive := maskLegal_setMaskBit hl h.laneActive active,
                  voices_length := by simpa using h.voices_length, voice := fun j uv' huv' => ?_ }
  rw [maskBit_setMaskBit _ _ _ _ hl8]
  rw [List.getElem?_set] at huv'
  split at huv'
  next hj =>
    subst hj
    simp only [h.voices_length, hl, if_true, Option.some.injEq] at huv'
    rw [if_pos rfl, ← huv']
    exact huv
  next hj =>
    rw [if_neg (Ne.symm hj)]
    exact h.voice j uv' huv'

/-- Lane ℓ below V has a voice that is sound for its bit. -/
theorem cluster_voice_sound {k : Config} {cl : Cluster} (h : cl.Sound k) {l : Nat} (hl : l < k.v) :
    (cl.voice l).Sound k (maskBit cl.laneActive l) := by
  rw [← h.voices_length] at hl
  refine h.voice l _ ?_
  simp [Cluster.voice, hl]

/-- A parameter smoother of the file has E cells. -/
theorem param_length {k : Config} {cl : Cluster} (h : cl.Sound k) {p : Nat} (hp : p ≤ 8) :
    (cl.param p).length = k.e := by
  have hlt : p < cl.params.length := by rw [h.params_length]; omega
  refine h.param_length _ ?_
  simp [Cluster.param, hlt]

/-- A parameter smoother with E cells keeps the cluster sound. -/
theorem cluster_setParam_sound {k : Config} {cl : Cluster} (h : cl.Sound k) (p : Nat) {c : Lin}
    (hc : c.length = k.e) : ({ cl with params := cl.params.set p c } : Cluster).Sound k := by
  refine { h with params_length := by simpa using h.params_length, param_length := fun c' hc' => ?_ }
  rcases List.mem_or_eq_of_mem_set hc' with hmem | rfl
  · exact h.param_length c' hmem
  · exact hc

theorem clTickN_sound {k : Config} {cl : Cluster} (h : cl.Sound k) (site : Site) (n : Nat) :
    (clTickN site cl n).Sound k := by
  refine { h with params_length := by simpa [clTickN] using h.params_length, param_length := fun c' hc' => ?_ }
  obtain ⟨p, hp, rfl⟩ := List.mem_mapIdx.1 hc'
  simpa using h.param_length _ (List.getElem_mem hp)

theorem clActivate_sound {k : Config} {cl : Cluster} (h : cl.Sound k) (site : Site) : (clActivate k site cl).Sound k :=
  { h with wn := by simpa [clActivate] using h.wn, wf := by simpa [clActivate] using h.wf }

/-- `VON` leaves a sound cluster whose lane sounds (`44_cluster.md` R245). -/
theorem voiceOn_sound {k : Config} (hk : k.legal = true) {cl : Cluster} (h : cl.Sound k) (site : Site)
    (sampleRate : F32) {l : Nat} (hl : l < k.v) (note draws : Nat) :
    (voiceOn k site sampleRate cl l note draws).1.Sound k := by
  have hactivated : (if cl.laneActive = 0 then clActivate k (0 :: site) cl else cl).Sound k := by
    split
    · exact clActivate_sound h _
    · exact h
  generalize hcl1 : (if cl.laneActive = 0 then clActivate k (0 :: site) cl else cl) = cl1 at hactivated
  have hbase : ∀ b, ({ cl1 with basePinc := (cl1.basePinc.set (2 * l) b).set (2 * l + 1) b } : Cluster).Sound k :=
    fun b => { hactivated with basePinc := by simpa using hactivated.basePinc }
  simp only [voiceOn, hcl1]
  exact cluster_setLane_sound hk (hbase _) hl
    (uvConfig_sound hk (silence_sound (cluster_voice_sound (hbase _) hl)) _ _ _ _ _)

/-- `VOFF` leaves a sound cluster whose lane is silent (`44_cluster.md` R249). -/
theorem voiceOff_sound {k : Config} (hk : k.legal = true) {cl : Cluster} (h : cl.Sound k) {l : Nat} (hl : l < k.v) :
    (voiceOff cl l).Sound k := by
  have hoff := cluster_setLane_sound hk h hl (silence_sound (cluster_voice_sound h hl))
  unfold voiceOff clDeactivate
  rwa [ite_self]

@[simp] theorem setLinPair_length (c : Lin) (l : Nat) (p : LinCell × LinCell) :
    (setLinPair c l p).length = c.length := by simp [setLinPair]

/-- A lane of a sound cluster written into a lane of another leaves that one sound (`44_cluster.md` R253). -/
theorem putLane_getLane_sound {k : Config} (hk : k.legal = true) {src dst : Cluster} (hsrc : src.Sound k)
    (hdst : dst.Sound k) {l1 l2 : Nat} (hl1 : l1 < k.v) (hl2 : l2 < k.v) :
    (putLane dst l2 (getLane src l1)).Sound k := by
  refine { cluster_setLane_sound hk hdst hl2 (cluster_voice_sound hsrc hl1) with
    params_length := by simp [putLane, getLane, hsrc.params_length, hdst.params_length]
    param_length := fun c hc => ?_
    basePinc := by simpa [putLane] using hdst.basePinc
    wn := by simpa [putLane] using hdst.wn
    wf := by simpa [putLane] using hdst.wf }
  obtain ⟨i, hi, rfl⟩ := List.mem_iff_getElem.1 hc
  simp only [putLane, List.length_zipWith, Nat.lt_min] at hi
  simpa [putLane] using hdst.param_length _ (List.getElem_mem hi.1)

/-! ### The steps of PROCESS -/

/-- Steps (1) to (3) of PROCESS on lanes that all sound (`44_cluster.md` R262). -/
theorem blockSetup_sound {k : Config} (hk : k.legal = true) {cl : Cluster} (h : cl.Sound k) (site : Site) {m : Mask}
    (hm : ∀ l, maskBit m l = true → maskBit cl.laneActive l = true) (n draws : Nat) :
    (blockSetup k site cl m n draws).1.Sound k := by
  have hticked := clTickN_sound h (0 :: site) n
  have hvoices := cluster_mapAcc_sound hticked draws
    (f := fun l uv d =>
      if maskBit m l then uvSetSmooth k (l :: 1 :: site) (clTickN (0 :: site) cl n) l (recip n) uv d else (uv, d))
    fun l uv d huv => by
      split
      next hl =>
        have hactive : maskBit (clTickN (0 :: site) cl n).laneActive l = true := hm l hl
        rw [hactive]
        exact uvConfig_sound hk huv _ _ _ _ _
      next => exact huv
  exact { hvoices with wn := by simpa [blockSetup] using hvoices.wn, wf := by simpa [blockSetup] using hvoices.wf }

/-- A step of a sound cluster leaves a sound cluster and puts out E samples (`44_cluster.md` R260). -/
theorem clStep_sound {k : Config} {cl : Cluster} (h : cl.Sound k) (site : Site) (bank : BankSlot) (m : Mask) :
    (clStep k site bank cl m).1.Sound k ∧ (clStep k site bank cl m).2.length = k.e := by
  constructor
  · refine { cluster_voices_sound h (voices := (clStep k site bank cl m).1.voices) (by simp [clStep])
        fun l uv' huv' => ?_ with
      wn := by simpa [clStep] using h.wn, wf := by simpa [clStep] using h.wf }
    simp only [clStep, List.getElem?_map, List.getElem?_mapIdx, Option.map_map, Option.map_eq_some_iff,
      Function.comp_apply] at huv'
    obtain ⟨uv, huv, rfl⟩ := huv'
    split
    · exact uvProcess_sound (h.voice l uv huv) _ _
    · exact h.voice l uv huv
  · simp [clStep, h.voices_length, Config.e, List.length_flatMap, Nat.mul_comm]

/-- The sample loop writes OUT inside its space while its window lies there (`44_cluster.md` R262 step (4)). -/
theorem sampleLoop_sound {k : Config} (site : Site) (bank : BankSlot) (m : Mask) {out size todo s : Nat}
    {cl : Cluster} {mem : Memory} (h : cl.Sound k) (hmem : mem.wf size = true)
    (hwindow : out + (s + todo) * k.e ≤ size) :
    (sampleLoop k site bank m out todo s cl mem).1.Sound k
    ∧ (sampleLoop k site bank m out todo s cl mem).2.wf size = true := by
  induction todo generalizing s cl mem with
  | zero => exact ⟨h, hmem⟩
  | succ todo ih =>
    obtain ⟨hcl, hlen⟩ := clStep_sound h (s :: site) bank m
    have hsample : (s + 1) * k.e ≤ (s + (todo + 1)) * k.e := Nat.mul_le_mul_right _ (by omega)
    rw [Nat.add_mul, Nat.one_mul] at hsample
    refine ih hcl (Memory.writeList_wf _ _ _ _ hmem (by omega)) ?_
    rwa [Nat.add_assoc, Nat.add_comm 1]

/-! ### The fresh pool -/

theorem freshOsc_sound (k : Config) : (freshOsc k).Sound k :=
  ⟨by simp [freshOsc], by simp [freshOsc], by simp [freshOsc], maskLegal_zero _⟩

/-- One copy fills one group. -/
theorem packGroups_one {k : Config} (hk : k.legal = true) : packGroups k 1 = 1 := by
  rcases v_of_legal hk with h | h | h | h <;> simp [packGroups, h]

theorem freshVoice_sound {k : Config} (hk : k.legal = true) : (freshVoice k).Sound k false := by
  refine ⟨by simp [freshVoice], le_rfl, maxUnison_pos_of_legal hk, (packGroups_one hk).symm, ?_, fun g o ho => ?_⟩
  · simp only [freshVoice, packMask, packTail, packGroups_one hk]
    rcases v_of_legal hk with h | h | h | h <;> simp [h]
  · obtain rfl := List.eq_of_mem_replicate (List.mem_of_getElem? ho)
    exact ⟨freshOsc_sound k, rfl⟩

theorem freshCluster_sound {k : Config} (hk : k.legal = true) : (freshCluster k).Sound k := by
  refine ⟨by simp [freshCluster], fun c hc => ?_, by simp [freshCluster], by simp [freshCluster],
    by simp [freshCluster], maskLegal_zero _, by simp [freshCluster], fun l uv huv => ?_⟩
  · obtain rfl := List.eq_of_mem_replicate hc
    simp
  · obtain rfl := List.eq_of_mem_replicate (List.mem_of_getElem? huv)
    have hsilent : maskBit (freshCluster k).laneActive l = false := by simp [freshCluster, maskBit]
    rw [hsilent]
    exact freshVoice_sound hk

/-- The contents of a slot of some frames have all their elements (`20_memory.md` R72). -/
theorem bankData_length (s : State) (src frames : Nat) :
    (bankData s src frames).length = frames * (s.cfg.numMipmaps * s.cfg.tableSize) := by
  simp [bankData, frameData, List.length_flatMap]

end Sys2Proof.Machine
end

section
/-! SUPPORT. Power-on meets the invariant and every command keeps it (`10_state.md` R30 to R50), and the statements on
the invariant. -/

namespace Sys2Proof.Machine

/-! ### Power-on and the answers -/

theorem powerOn_sound {k : Config} (hk : k.legal = true) : (State.powerOn k).Sound where
  legal := hk
  cfgOk := rfl
  pool_length := rfl
  pool := by simp [State.powerOn]
  banks_length := by simp [State.powerOn]
  bank b hb := by
    obtain rfl := List.eq_of_mem_replicate hb
    rfl
  activeBank := by simp [State.powerOn]
  errstat := by simp [State.powerOn]
  importMem := (powerOn_memories_wf k).1
  outMem := (powerOn_memories_wf k).2
  rspPort := rfl

/-- Settles O15: `CFG_TINY` is a legal build. -/
theorem resetMeetsInvariant : Obligations.ResetMeetsInvariant := State.inv_iff.2 (powerOn_sound (by decide))

theorem take_sound {s : State} (h : s.Sound) (len : Nat) : (s.take len).Sound := { h with }

theorem answeredOk_sound {s : State} (h : s.Sound) (payload : Word) : (answeredOk s payload).Sound :=
  { h with rspPort := by simpa [answeredOk] using h.rspPort }

/-- No error has status 0, whose bit of ERRSTAT stays 0 (`10_state.md` R35). -/
theorem errstatSet_bit_zero (old : BitVec 8) (e : Err) : (errstatSet old e).getLsbD 0 = old.getLsbD 0 := by
  have hcode : (BitVec.ofNat 8 (2 ^ errCode e)).getLsbD 0 = false := by cases e <;> decide
  rw [errstatSet, BitVec.getLsbD_or, hcode, Bool.or_false]

theorem raised_sound {s : State} (h : s.Sound) (e : Err) (info : Word) : (raised s e info).Sound :=
  { h with
    errstat := (errstatSet_bit_zero _ _).trans h.errstat
    rspPort := by simpa using h.rspPort }

/-! ### Clusters of a sound state -/

theorem cluster_sound {s : State} (h : s.Sound) {c : Nat} (hc : c < s.numClusters.toNat) :
    (s.cluster c).Sound s.cfg := by
  rw [← h.pool_length] at hc
  refine h.pool _ ?_
  simp [State.cluster, hc]

/-- A command that passed its check of c works on a sound cluster. -/
theorem checked_cluster_sound {s : State} (h : s.Sound) (c : Field) {checks : List Check}
    (hpass : ∀ ch ∈ checks, ch.1 = false) (hc : checkCluster s c ∈ checks) : (s.cluster c.toNat).Sound s.cfg :=
  cluster_sound h (by simpa [checkCluster] using hpass _ hc)

/-- A command that passed its check of a lane works on a lane below V. -/
theorem checked_lane_lt {s : State} (l : Field) {checks : List Check} (hpass : ∀ ch ∈ checks, ch.1 = false)
    (hl : checkLane s l ∈ checks) : l.toNat < s.cfg.v := by
  simpa [checkLane] using hpass _ hl

/-- A sound cluster, and a canonical OUT, put into a sound state; the counters are free. -/
theorem setCluster_sound {s : State} (h : s.Sound) (c : Nat) {cl : Cluster} (hcl : cl.Sound s.cfg) {mem : Memory}
    (hmem : mem.wf s.cfg.outSize = true) (draws nanSeed : Nat) :
    ({ s with clusters := s.clusters.set c cl, outMem := mem, draws := draws, nanSeed := nanSeed } : State).Sound :=
  { h with
    pool_length := by simpa using h.pool_length
    pool := fun cl' hcl' => by
      rcases List.mem_or_eq_of_mem_set hcl' with hmem | rfl
      · exact h.pool cl' hmem
      · exact hcl
    outMem := hmem }

/-! ### Commands on a cluster -/

theorem execSetp_sound {s : State} (h : s.Sound) (c : Field) (mask : Mask) (id : Field) (value : F32) :
    ensures (execSetp c mask id value s) State.Sound := by
  refine ensures_checked (raised_sound h) fun hpass => ensures_ite
    (fun _ => ensures_respond (answeredOk_sound h _))
    (fun hid => ensures_respond (answeredOk_sound (setCluster_sound h _ ?_ h.outMem _ _) _))
  have hcl := checked_cluster_sound h c hpass (by simp)
  exact cluster_setParam_sound hcl _ (by simpa using param_length hcl (Nat.le_of_not_lt hid))

theorem execSetps_sound {s : State} (h : s.Sound) (c : Field) (mask : Mask) (id : Field) (value : F32)
    (samples : Word) : ensures (execSetps c mask id value samples s) State.Sound := by
  refine ensures_checked (raised_sound h) fun hpass => ensures_ite
    (fun _ => ensures_respond (answeredOk_sound h _))
    (fun hid => ensures_respond (answeredOk_sound (setCluster_sound h _ ?_ h.outMem _ _) _))
  have hcl := checked_cluster_sound h c hpass (by simp)
  have hparam := param_length hcl (Nat.le_of_not_lt hid)
  refine cluster_setParam_sound hcl _ ?_
  split <;> simpa using hparam

theorem execVon_sound {s : State} (h : s.Sound) (c lane : Field) (note : BitVec 7) :
    ensures (execVon c lane note s) State.Sound := by
  refine ensures_checked (raised_sound h) fun hpass =>
    ensures_respond (answeredOk_sound (setCluster_sound h _ ?_ h.outMem _ _) _)
  have hcl := checked_cluster_sound h c hpass (by simp)
  exact voiceOn_sound h.legal hcl _ _ (checked_lane_lt lane hpass (by simp)) _ _

theorem execVoff_sound {s : State} (h : s.Sound) (c lane : Field) : ensures (execVoff c lane s) State.Sound := by
  refine ensures_checked (raised_sound h) fun hpass => ensures_ite
    (fun _ => ensures_respond (answeredOk_sound (setCluster_sound h _ ?_ h.outMem _ _) _))
    (fun _ => ensures_respond (answeredOk_sound h _))
  have hcl := checked_cluster_sound h c hpass (by simp)
  exact voiceOff_sound h.legal hcl (checked_lane_lt lane hpass (by simp))

theorem execMove_sound {s : State} (h : s.Sound) (c1 l1 c2 l2 : Field) :
    ensures (execMove c1 l1 c2 l2 s) State.Sound := by
  refine ensures_checked (raised_sound h) fun hpass => ensures_ite
    (fun _ => ensures_respond (answeredOk_sound h _))
    (fun _ => ensures_respond (answeredOk_sound (setCluster_sound h _ ?_ h.outMem _ _) _))
  have hsrc := checked_cluster_sound h c1 hpass (by simp)
  have hdst := checked_cluster_sound h c2 hpass (by simp)
  exact putLane_getLane_sound h.legal hsrc hdst (checked_lane_lt l1 hpass (by simp))
    (checked_lane_lt l2 hpass (by simp))

theorem execReset_sound {s : State} (h : s.Sound) (c : Field) (mask : Mask) :
    ensures (execReset c mask s) State.Sound := by
  refine ensures_checked (raised_sound h) fun hpass =>
    ensures_respond (answeredOk_sound (setCluster_sound h _ ?_ h.outMem _ _) _)
  have hcl := checked_cluster_sound h c hpass (by simp)
  refine cluster_mapAcc_sound hcl _ fun l uv d huv => ?_
  split
  · exact reseedVoice_sound huv _ _ _
  · exact huv

/-- A lane of the processed mask sounds. -/
theorem maskBit_and_left {a b : Mask} {l : Nat} (h : maskBit (a &&& b) l = true) : maskBit a l = true := by
  simp only [maskBit, BitVec.getLsbD_and, Bool.and_eq_true] at h ⊢
  exact h.1

theorem execProcess_sound {s : State} (h : s.Sound) (c : Field) (mask : Mask) (n out : Word) :
    ensures (execProcess c mask n out s) State.Sound := by
  refine ensures_checked (raised_sound h) fun hpass => ensures_respond (answeredOk_sound ?_ _)
  have hcluster := checked_cluster_sound h c hpass (by simp)
  simp only [List.forall_mem_cons, Bool.or_eq_false_iff, decide_eq_false_iff_not] at hpass
  obtain ⟨-, -, ⟨-, hwindow⟩, -⟩ := hpass
  have hsetup := blockSetup_sound h.legal hcluster (0 :: [s.nanSeed])
    (fun l => maskBit_and_left (b := mask)) n.toNat s.draws
  obtain ⟨hcl, hmem⟩ := sampleLoop_sound (1 :: [s.nanSeed]) (s.bank s.activeBank.slot.toNat)
    ((s.cluster c.toNat).laneActive &&& mask) (out := out.toNat) (todo := n.toNat) (s := 0) hsetup h.outMem
    (by rw [Nat.zero_add]; exact Nat.le_of_not_lt hwindow)
  exact setCluster_sound h c.toNat hcl hmem _ _

/-! ### Banks and system commands -/

theorem execReplace_sound {s : State} (h : s.Sound) (slot : Field) : ensures (execReplace slot s) State.Sound := by
  refine ensures_checked (raised_sound h) fun hpass => ensures_respond (answeredOk_sound ?_ _)
  simp only [List.forall_mem_cons, Bool.or_eq_false_iff, decide_eq_false_iff_not, Bool.not_eq_false'] at hpass
  obtain ⟨⟨hslot, hvalid⟩, -⟩ := hpass
  exact { h with activeBank := fun _ => ⟨Nat.lt_of_not_le hslot, hvalid⟩ }

/-- A slot read after one slot of the bank has been replaced by a valid one stays valid if it was. -/
theorem bank_valid_of_set {s : State} {n slot : Nat} {b : BankSlot} (hn : n < s.banks.length) (hb : b.valid = true)
    (h : (s.bank n).valid = true) : (({ s with banks := s.banks.set slot b } : State).bank n).valid = true := by
  by_cases hslot : slot = n
  · subst hslot
    simpa [State.bank, hn] using hb
  · simpa [State.bank, List.getD, hslot] using h

theorem execBload_sound {s : State} (h : s.Sound) (slot : Field) (src count : Word) :
    ensures (execBload slot src count s) State.Sound := by
  refine ensures_checked (raised_sound h) fun hpass => ensures_respond (answeredOk_sound ?_ _)
  simp only [List.forall_mem_cons, Bool.or_eq_false_iff, decide_eq_false_iff_not, not_not] at hpass
  obtain ⟨-, -, -, ⟨⟨hcount, hwhole⟩, hframes⟩, -⟩ := hpass
  have hsome : 1 ≤ count.toNat / s.cfg.tableSize :=
    Nat.div_pos (Nat.le_of_dvd (Nat.pos_of_ne_zero hcount) (Nat.dvd_of_mod_eq_zero hwhole)) (Nat.two_pow_pos _)
  refine { h with
    banks_length := by simpa using h.banks_length
    bank := fun b hb => ?_
    activeBank := fun hactive => ?_ }
  · rcases List.mem_or_eq_of_mem_set hb with hmem | rfl
    · exact h.bank b hmem
    · simp only [BankSlot.ok, if_true, Bool.and_eq_true, decide_eq_true_eq, beq_iff_eq]
      exact ⟨⟨hsome, Nat.le_of_not_lt hframes⟩, bankData_length _ _ _⟩
  · obtain ⟨hlt, hvalid⟩ := h.activeBank hactive
    exact ⟨hlt, bank_valid_of_set (by rwa [h.banks_length]) rfl hvalid⟩

theorem execInit_sound {s : State} (h : s.Sound) (rate : F32) (maxBlock clusters : Word) :
    ensures (execInit rate maxBlock clusters s) State.Sound := by
  refine ensures_checked (raised_sound h) fun hpass => ensures_respond (answeredOk_sound ?_ _)
  simp only [List.forall_mem_cons, Bool.or_eq_false_iff, decide_eq_false_iff_not, Bool.not_eq_false'] at hpass
  obtain ⟨hrate, hblock, ⟨hsome, hmax⟩, -⟩ := hpass
  refine { h with
    cfgOk := ?_
    pool_length := List.length_replicate
    pool := fun cl hcl => ?_
    errstat := by simp }
  · simp only [State.cfgOk, if_true, Bool.and_eq_true, decide_eq_true_eq]
    exact ⟨⟨⟨hrate, Nat.pos_of_ne_zero hblock⟩, Nat.pos_of_ne_zero hsome⟩, Nat.le_of_not_lt hmax⟩
  · obtain rfl := List.eq_of_mem_replicate hcl
    exact freshCluster_sound h.legal

theorem execStat_sound {s : State} (h : s.Sound) (reg c slot : Field) :
    ensures (execStat reg c slot s) State.Sound :=
  ensures_ite (fun _ => ensures_checked (raised_sound h) fun _ => ensures_respond (answeredOk_sound h _))
    (fun _ => ensures_respond (answeredOk_sound h _))

/-! ### The step -/

theorem exec_sound (i : Instr) {s : State} (h : s.Sound) : ensures (exec i s) State.Sound := by
  cases i with
  | nop => exact ensures_respond (answeredOk_sound h _)
  | init => exact execInit_sound h _ _ _
  | process => exact execProcess_sound h _ _ _ _
  | setp => exact execSetp_sound h _ _ _ _
  | setps => exact execSetps_sound h _ _ _ _ _
  | von => exact execVon_sound h _ _ _
  | voff => exact execVoff_sound h _ _
  | move => exact execMove_sound h _ _ _ _
  | reset => exact execReset_sound h _ _
  | replace => exact execReplace_sound h _
  | bload => exact execBload_sound h _ _ _
  | stat => exact execStat_sound h _ _ _

theorem step_sound {s : State} (h : s.Sound) : ensures (step s) State.Sound := by
  unfold step
  rw [if_pos h.legal]
  cases nextCommand s with
  | wait => exact ensures_next h
  | illegal w0 len => exact ensures_next (raised_sound (take_sound h len) _ _)
  | instr i len => exact exec_sound i (take_sound h len)

/-- Settles O16: the words taken, a failed check and each completed command keep the clauses of the invariant. -/
theorem stepKeepsInvariant : Obligations.StepKeepsInvariant := fun _ t hinv hstep =>
  State.inv_iff.2 (step_sound (State.inv_iff.1 hinv) t hstep)

end Sys2Proof.Machine
end

section
/-! SUPPORT. The bank slots across a step (`20_memory.md` R84, `41_bank.md` R168, R169), and the statement that a
published bank is immutable. -/

namespace Sys2Proof.Machine

/-! ### Reading the slots -/

theorem bank_of_banks_eq {s t : State} (h : t.banks = s.banks) (n : Nat) : t.bank n = s.bank n := by
  rw [State.bank, State.bank, h]

/-- Replacing one slot leaves every other as it was. -/
theorem bank_of_set_ne (s : State) {n slot : Nat} (b : BankSlot) (h : slot ≠ n) :
    ({ s with banks := s.banks.set slot b } : State).bank n = s.bank n := by
  simp [State.bank, List.getD, h]

/-- A number outside the bank reads as an invalid slot. -/
theorem lt_banks_length_of_valid {s : State} {n : Nat} (h : (s.bank n).valid = true) : n < s.banks.length := by
  by_contra hge
  simp [State.bank, List.getD, hge] at h

/-! ### What a step keeps of the bank -/

/-- From s to t the active slot, when there is one, is unchanged and every valid slot stays valid. -/
structure KeepsPublished (s t : State) : Prop where
  active : s.activeBank.valid = true → t.bank s.activeBank.slot.toNat = s.bank s.activeBank.slot.toNat
  valid : ∀ n, (s.bank n).valid = true → (t.bank n).valid = true

theorem keepsPublished_of_banks_eq {s t : State} (h : t.banks = s.banks) : KeepsPublished s t where
  active _ := bank_of_banks_eq h _
  valid n hn := by rwa [bank_of_banks_eq h n]

/-- A BLOAD that passes its checks loads a slot that is not the active one (`41_bank.md` R168). -/
theorem execBload_keepsPublished (slot : Field) (src count : Word) (s : State) :
    ensures (execBload slot src count s) (KeepsPublished s) := by
  refine ensures_checked (fun _ _ => keepsPublished_of_banks_eq rfl) fun hpass => ensures_respond
    ⟨fun hactive => ?_, fun n hn => ?_⟩
  · simp only [List.forall_mem_cons, hactive, Bool.true_and, beq_eq_false_iff_ne] at hpass
    obtain ⟨-, hslot, -⟩ := hpass
    exact bank_of_set_ne s _ (mt BitVec.eq_of_toNat_eq hslot.symm)
  · exact bank_valid_of_set (lt_banks_length_of_valid hn) rfl hn

theorem exec_keepsPublished (i : Instr) (s : State) : ensures (exec i s) (KeepsPublished s) := by
  by_cases hload : ∃ slot src count, i = .bload slot src count
  · obtain ⟨slot, src, count, rfl⟩ := hload
    exact execBload_keepsPublished slot src count s
  · push Not at hload
    exact fun t hexec => keepsPublished_of_banks_eq ((exec_writesItsOwn i s t hexec).banks hload)

theorem step_keepsPublished (s : State) : ensures (step s) (KeepsPublished s) := by
  unfold step
  refine ensures_ite (fun _ => ?_) (fun _ _ hrefused => by cases hrefused)
  cases nextCommand s with
  | wait => exact ensures_next (keepsPublished_of_banks_eq rfl)
  | illegal w0 len => exact ensures_next (keepsPublished_of_banks_eq rfl)
  | instr i len =>
    intro t hexec
    have hkeeps := exec_keepsPublished i (s.take len) t hexec
    exact ⟨hkeeps.active, hkeeps.valid⟩

/-- Settles O13: only BLOAD writes the bank, never the active slot, and the slot it loads is valid. -/
theorem publishedBankIsImmutable : Obligations.PublishedBankIsImmutable := by
  intro s t hstep
  have hkeeps := step_keepsPublished s t hstep
  exact ⟨hkeeps.active, hkeeps.valid⟩

end Sys2Proof.Machine
end

section
/-! SUPPORT. What the host may do between commands (`20_memory.md` R76, `60_exceptions.md` R310,
`70_reset_and_hazards.md` R330): the words that a stream of bytes carries, what each action returns and writes, that
each keeps the invariant, and the statement on the host's actions. -/

namespace Sys2Proof.Machine

/-! ### Words as transport bytes -/

/-- The bytes of a run of words carry those words (`20_memory.md` R76). -/
theorem wordsOfBytes_flatMap_wordBytes (order : ByteOrder) (ws : List Word) :
    wordsOfBytes order (ws.flatMap (wordBytes order)) = ws := by
  induction ws with
  | nil => rfl
  | cons w ws ih => rw [List.flatMap_cons, wordsOfBytes_wordBytes, ih]

theorem wordsOfBytes_wordBytes_single (order : ByteOrder) (w : Word) :
    wordsOfBytes order (wordBytes order w) = [w] := by
  simpa using wordsOfBytes_flatMap_wordBytes order [w]

theorem wordsOfBytes_wordBytes_pair (order : ByteOrder) (w w' : Word) :
    wordsOfBytes order (wordBytes order w ++ wordBytes order w') = [w, w'] := by
  simpa using wordsOfBytes_flatMap_wordBytes order [w, w']

theorem wordBytes_length (order : ByteOrder) (w : Word) : (wordBytes order w).length = 4 := by
  cases order <;> rfl

/-! ### What each action returns and writes -/

theorem hostSendBytes_wordBytes (s : State) (ws : List Word) :
    hostSendBytes s (ws.flatMap (wordBytes s.cfg.wordByteOrder)) = hostSend s ws := by
  rw [hostSendBytes, wordsOfBytes_flatMap_wordBytes]

/-- A response is there to take when the port holds two words, which it loses (`30_encoding.md` R108). -/
theorem hostTakeResponse_eq_some_iff {s t : State} {r : Word × Word} :
    hostTakeResponse s = some (r, t) ↔
      ∃ rest, s.rspPort = r.1 :: r.2 :: rest ∧ t = { s with rspPort := rest } := by
  obtain ⟨r0, r1⟩ := r
  unfold hostTakeResponse
  split
  next w0 w1 rest hport => simp [hport, eq_comm, and_assoc]
  next hshort => simpa using fun rest hport => absurd hport (hshort r0 r1 rest)

theorem hostWriteImport_eq_some_iff {s t : State} {a : Nat} {x : F32} :
    hostWriteImport s a x = some t ↔
      a < s.cfg.importSize ∧ t = { s with importMem := s.importMem.write a x } := by
  simp [hostWriteImport, eq_comm]

/-- What a read of IMPORT gives after one write: the value written there, the old contents elsewhere. -/
theorem importRead_write (m : Memory) (a b : Nat) (x : F32) :
    importRead (m.write a x) b = if b = a then x else importRead m b := by
  rw [importRead, Memory.lookup_write]
  split <;> rfl

/-! ### Each action keeps the invariant -/

theorem hostSend_sound {s : State} (h : s.Sound) (words : List Word) : (hostSend s words).Sound := { h with }

/-- Taking a response leaves the responses in pairs. -/
theorem hostTakeResponse_sound {s t : State} {r : Word × Word} (h : s.Sound)
    (htake : hostTakeResponse s = some (r, t)) : t.Sound := by
  obtain ⟨rest, hport, rfl⟩ := hostTakeResponse_eq_some_iff.1 htake
  have hpairs := h.rspPort
  rw [hport] at hpairs
  exact { h with rspPort := by simpa [Nat.add_assoc] using hpairs }

theorem hostWriteImport_sound {s t : State} {a : Nat} {x : F32} (h : s.Sound)
    (hwrite : hostWriteImport s a x = some t) : t.Sound := by
  obtain ⟨ha, rfl⟩ := hostWriteImport_eq_some_iff.1 hwrite
  exact { h with importMem := Memory.write_wf _ _ _ _ h.importMem ha }

theorem hostPowerOn_sound {s : State} (h : s.Sound) : (hostPowerOn s).Sound := { powerOn_sound h.legal with }

/-- Settles O17: each action by its rules above, a byte form by the words its bytes carry. -/
theorem hostActionsKeepInvariant : Obligations.HostActionsKeepInvariant := by
  intro s hinv
  have h := State.inv_iff.1 hinv
  refine ⟨fun ws => ⟨State.inv_iff.2 (hostSend_sound h ws), hostSendBytes_wordBytes s ws⟩, fun r t htake => ?_,
    fun a b0 b1 b2 b3 => ?_, fun a x hread => ?_, fun a x t hwrite => ?_, State.inv_iff.2 (hostPowerOn_sound h)⟩
  · refine ⟨State.inv_iff.2 (hostTakeResponse_sound h htake), ?_, _, by rw [hostTakeResponseBytes, htake]; rfl,
      wordsOfBytes_wordBytes_pair _ _ _⟩
    obtain ⟨rest, hport, rfl⟩ := hostTakeResponse_eq_some_iff.1 htake
    exact hport
  · rw [hostWriteImportBytes]
    cases s.cfg.wordByteOrder <;> rfl
  · exact ⟨_, by rw [hostReadOutBytes, hread]; rfl, wordBytes_length _ _, wordsOfBytes_wordBytes_single _ _⟩
  · refine ⟨State.inv_iff.2 (hostWriteImport_sound h hwrite), fun b => ?_⟩
    obtain ⟨-, rfl⟩ := hostWriteImport_eq_some_iff.1 hwrite
    exact importRead_write _ _ _ _

end Sys2Proof.Machine
end

section
/-! SUPPORT. The parts of a lookup's address (`41_bank.md` R158, R159, `42_oscillator.md` R188) each lie in their
range, and the statement that a lookup reads inside the slot (`20_memory.md` R73). -/

namespace Sys2Proof.Machine

theorem numOctaves_le_of_legal {k : Config} (h : k.legal = true) : k.numOctaves ≤ 31 := by
  simp only [Config.legal, Bool.and_eq_true, decide_eq_true_eq] at h
  tauto

theorem level_lt_numMipmaps (k : Config) (delta : Word) : level k delta < k.numMipmaps :=
  Nat.lt_succ_of_le (Nat.min_le_left _ _)

theorem clampi_bounds {x lo hi : Int} (h : lo ≤ hi) : lo ≤ clampi x lo hi ∧ clampi x lo hi ≤ hi := by
  unfold clampi
  omega

/-- A clamped frame value names a frame of the slot, when it has one. -/
theorem frameIdx_lt (x : F32) {b : BankSlot} (h : 1 ≤ b.numFrames) : frameIdx x b < b.numFrames := by
  obtain ⟨hlo, hhi⟩ := clampi_bounds (x := f2i x) (show (0 : Int) ≤ (b.numFrames : Int) - 1 by omega)
  unfold frameIdx
  omega

/-- The high bits of a phase number a sample of the table. -/
theorem splitIdx_lt {k : Config} (hk : k.legal = true) (phase : Word) : splitIdx k phase < k.tableSize := by
  have hbits : k.numOctaves + k.fracBits = 32 := Nat.add_sub_of_le (by have := numOctaves_le_of_legal hk; omega)
  rw [splitIdx, Config.tableSize, Nat.div_lt_iff_lt_mul (Nat.two_pow_pos _), ← Nat.pow_add, hbits]
  exact phase.isLt

theorem BankSlot.ok_iff_of_valid {k : Config} {b : BankSlot} (h : b.valid = true) :
    b.ok k = true ↔ 1 ≤ b.numFrames ∧ b.numFrames ≤ k.maxFrames
      ∧ b.data.length = b.numFrames * (k.numMipmaps * k.tableSize) := by
  simp [BankSlot.ok, h, and_assoc]

/-- A frame, a level and a sample of a slot of some frames give an address below its size (`20_memory.md` R72, R73). -/
theorem bank_address_lt {k : Config} {frames fi m i : Nat} (hfi : fi < frames) (hm : m < k.numMipmaps)
    (hi : i < k.tableSize) :
    (m + fi * k.numMipmaps) * k.tableSize + i < frames * (k.numMipmaps * k.tableSize) := by
  have hrow : m + k.numMipmaps * fi < k.numMipmaps * frames := Nat.add_mul_lt_mul_of_lt_of_lt hm hfi
  calc (m + fi * k.numMipmaps) * k.tableSize + i
      = k.tableSize * (m + k.numMipmaps * fi) + i := by ring
    _ < k.numMipmaps * frames * k.tableSize := Nat.mul_add_lt_mul_of_lt_of_lt hrow hi
    _ = frames * (k.numMipmaps * k.tableSize) := by ring

/-- Settles O29: level, frame and sample of both addresses are in range. -/
theorem bankReadsStayInRange : Obligations.BankReadsStayInRange := by
  intro k b d phase x hk hok hvalid
  obtain ⟨hframes, -, hlength⟩ := (BankSlot.ok_iff_of_valid hvalid).1 hok
  have inRange : ∀ i < k.tableSize,
      (level k d + frameIdx x b * k.numMipmaps) * k.tableSize + i < b.data.length := fun i hi => by
    rw [hlength]
    exact bank_address_lt (frameIdx_lt x hframes) (level_lt_numMipmaps k d) hi
  exact ⟨inRange _ (splitIdx_lt hk phase), inRange _ (Nat.mod_lt _ (Nat.two_pow_pos _))⟩

end Sys2Proof.Machine
end

section
/-! SUPPORT. The rows of the opcode map by their opcode (`30_encoding.md` R106, R112), the bits that a command leaves
unused (R103, R110) and the operands it reads (R104). -/

namespace Sys2Proof
open Machine (commandLength)

/-! ### The opcode map -/

theorem opcodeRow_eq_none_iff {opc : Field} : opcodeRow opc = none ↔ 12 ≤ opc.toNat :=
  List.getElem?_eq_none_iff

theorem opcode_lt_of_row {opc : Field} {row : OpcodeRow} (h : opcodeRow opc = some row) : opc.toNat < 12 :=
  (List.getElem?_eq_some_iff.1 h).1

/-- The opcodes that select a row (`30_encoding.md` R106). -/
theorem opcode_cases {opc : Field} (h : opc.toNat < 12) : opc = 0 ∨ opc = 1 ∨ opc = 2 ∨ opc = 3 ∨ opc = 4 ∨ opc = 5
    ∨ opc = 6 ∨ opc = 7 ∨ opc = 8 ∨ opc = 9 ∨ opc = 10 ∨ opc = 11 := by
  bv_omega

/-- The map's lengths are those of R112. -/
theorem words_of_row {opc : Field} {row : OpcodeRow} (h : opcodeRow opc = some row) :
    row.words = commandLength opc.toNat := by
  rcases opcode_cases (opcode_lt_of_row h) with rfl | rfl | rfl | rfl | rfl | rfl | rfl | rfl | rfl | rfl | rfl | rfl
  all_goals obtain rfl := Option.some.inj h; rfl

theorem commandLength_of_unknown {opc : Nat} (h : 12 ≤ opc) : commandLength opc = 1 := by
  unfold commandLength
  split_ifs <;> omega

theorem commandLength_le (opc : Nat) : commandLength opc ≤ 4 := by
  unfold commandLength
  split_ifs <;> omega

/-! ### The bits a command leaves unused -/

/-- The header bits that hold no operand of the command are zero (`30_encoding.md` R103). -/
def UnusedClear (w : Word) : Prop :=
  (w.opc = 0 ∨ w.opc = 1 → w.cField = 0 ∧ w.lmField = 0 ∧ w.auxField = 0)
  ∧ (w.opc = 2 ∨ w.opc = 6 ∨ w.opc = 7 ∨ w.opc = 8 → w.auxField = 0)
  ∧ (w.opc = 5 → w.auxField[7] = false)
  ∧ (w.opc = 9 ∨ w.opc = 10 → w.cField = 0 ∧ w.lmField = 0)

/-- The bits of a word that a mask keeps, field by field. -/
theorem and_header_eq_header_iff (w : Word) (mo mc mm ma po pc pm pa : Field) :
    w &&& header mo mc mm ma = header po pc pm pa
      ↔ w.opc &&& mo = po ∧ w.cField &&& mc = pc ∧ w.lmField &&& mm = pm ∧ w.auxField &&& ma = pa := by
  rw [← header_inj, ← header_and, header_fields]

@[simp] theorem and_allOnes (x : Field) : x &&& 255#8 = x := BitVec.and_allOnes

@[simp] theorem and_topBit_eq_zero_iff (x : Field) : x &&& 128#8 = 0#8 ↔ x[7] = false := by
  revert x
  decide

theorem header_eq {w : Word} {opc c lm aux : Field} (hopc : w.opc = opc) (hc : w.cField = c) (hlm : w.lmField = lm)
    (haux : w.auxField = aux) : header opc c lm aux = w := by
  rw [← hopc, ← hc, ← hlm, ← haux, header_fields]

/-- What a row's mask keeps of a header is its opcode and the unused bits of its command. -/
theorem and_mask_eq_pattern_iff {w : Word} {row : OpcodeRow} (hrow : opcodeRow w.opc = some row) :
    w &&& row.mask = row.pattern ↔ UnusedClear w := by
  have hlt := opcode_lt_of_row hrow
  have select := and_header_eq_header_iff w
  generalize hopc : w.opc = opc at hrow hlt
  rcases opcode_cases hlt with rfl | rfl | rfl | rfl | rfl | rfl | rfl | rfl | rfl | rfl | rfl | rfl <;>
    obtain rfl := Option.some.inj hrow
  · exact (select 0xFF 0xFF 0xFF 0xFF 0 0 0 0).trans (by simp [UnusedClear, hopc])
  · exact (select 0xFF 0xFF 0xFF 0xFF 1 0 0 0).trans (by simp [UnusedClear, hopc])
  · exact (select 0xFF 0 0 0xFF 2 0 0 0).trans (by simp [UnusedClear, hopc])
  · exact (select 0xFF 0 0 0 3 0 0 0).trans (by simp [UnusedClear, hopc])
  · exact (select 0xFF 0 0 0 4 0 0 0).trans (by simp [UnusedClear, hopc])
  · exact (select 0xFF 0 0 0x80 5 0 0 0).trans (by simp [UnusedClear, hopc])
  · exact (select 0xFF 0 0 0xFF 6 0 0 0).trans (by simp [UnusedClear, hopc])
  · exact (select 0xFF 0 0 0xFF 7 0 0 0).trans (by simp [UnusedClear, hopc])
  · exact (select 0xFF 0 0 0xFF 8 0 0 0).trans (by simp [UnusedClear, hopc])
  · exact (select 0xFF 0xFF 0xFF 0 9 0 0 0).trans (by simp [UnusedClear, hopc])
  · exact (select 0xFF 0xFF 0xFF 0 10 0 0 0).trans (by simp [UnusedClear, hopc])
  · exact (select 0xFF 0 0 0 11 0 0 0).trans (by simp [UnusedClear, hopc])

/-- The destination word of MOVE has zeros outside its two fields (`30_encoding.md` R110 (4)). -/
theorem move_destination_iff (w : Word) : w &&& 0xFF0000FF#32 = 0#32 ↔ w.opc = 0 ∧ w.auxField = 0 :=
  (and_header_eq_header_iff w 0xFF 0 0 0xFF 0 0 0 0).trans (by simp)

/-! ### The operands a command reads -/

/-- The command that the decoder reads from a header and the words after it, absent words read as 0
(`30_encoding.md` R104). -/
def operandsRead (v : Nat) (w0 : Word) (rest : List Word) : Option Instr :=
  decodeOperands v w0 (rest.getD 0 0) (rest.getD 1 0) (rest.getD 2 0)

theorem von_note (opc c lane : Field) (note : BitVec 7) :
    (header opc c lane (note.setWidth 8)).extractLsb' 0 7 = note := by
  apply BitVec.eq_of_toNat_eq
  simp only [BitVec.extractLsb'_toNat, header_toNat, BitVec.toNat_setWidth, Nat.shiftRight_eq_div_pow]
  have := note.isLt
  omega

theorem setWidth_note {w : Word} (h : w.auxField[7] = false) :
    (w.extractLsb' 0 7).setWidth 8 = w.auxField := by
  apply BitVec.eq_of_getLsbD_eq
  intro j hj
  rcases Nat.lt_succ_iff_lt_or_eq.1 hj with hj | rfl
  · simp [Word.auxField, hj]
  · simp [h]

/-- No operands are read of a lane mask that reaches V or of a bad destination word of MOVE (`30_encoding.md` R110). -/
theorem decodeOperands_eq_none_iff {v : Nat} {w0 w1 w2 w3 : Word} (h : w0.opc.toNat < 12) :
    decodeOperands v w0 w1 w2 w3 = none ↔
      ((w0.opc = 2 ∨ w0.opc = 3 ∨ w0.opc = 4 ∨ w0.opc = 8) ∧ maskLegal v w0.lmField = false)
      ∨ w0.opc = 7 ∧ ¬(w1.opc = 0 ∧ w1.auxField = 0) := by
  rw [← move_destination_iff]
  rcases opcode_cases h with h | h | h | h | h | h | h | h | h | h | h | h <;> simp [decodeOperands, h]

/-- An encoded command's operands read back, whatever words follow it (`30_encoding.md` R103, R104). -/
theorem operandsRead_of_encode {v : Nat} {i : Instr} (hwf : i.wellFormed v = true) {w0 : Word} {args : List Word}
    (henc : encode i = w0 :: args) (rest : List Word) :
    operandsRead v w0 (args ++ rest) = some i := by
  unfold operandsRead
  cases i <;> cases henc
  case nop | init | voff | replace | bload | stat => simp [decodeOperands]
  case process | setp | setps | reset => simp [decodeOperands, show maskLegal v _ = true from hwf]
  case von => simp [decodeOperands, von_note]
  case move => simp [decodeOperands, move_destination_iff]

/-- The operands read are those of one legal command, and the words read are its encoding (`30_encoding.md` R103,
R104). -/
theorem encode_of_decodeOperands {v : Nat} {w0 w1 w2 w3 : Word} {i : Instr} (hlt : w0.opc.toNat < 12)
    (hclear : UnusedClear w0) (hop : decodeOperands v w0 w1 w2 w3 = some i) :
    i.wellFormed v = true ∧ encode i = [w0, w1, w2, w3].take (commandLength w0.opc.toNat) := by
  obtain ⟨hall, haux, htop, hlanes⟩ := hclear
  -- for each opcode, what its unused bits say of the header and which command its operands give
  rcases opcode_cases hlt with h | h | h | h | h | h | h | h | h | h | h | h <;>
    simp [h] at hall haux htop hlanes <;> simp [decodeOperands, h] at hop <;> rw [h]
  · -- NOP
    subst hop
    obtain ⟨hc, hlm, haux⟩ := hall
    exact ⟨rfl, congrArg ([·]) (header_eq h hc hlm haux)⟩
  · -- INIT
    subst hop
    obtain ⟨hc, hlm, haux⟩ := hall
    exact ⟨rfl, congrArg ([·, w1, w2, w3]) (header_eq h hc hlm haux)⟩
  · -- PROCESS
    obtain ⟨hmask, rfl⟩ := hop
    exact ⟨hmask, congrArg ([·, w1, w2]) (header_eq h rfl rfl haux)⟩
  · -- SETP
    obtain ⟨hmask, rfl⟩ := hop
    exact ⟨hmask, congrArg ([·, w1]) (header_eq h rfl rfl rfl)⟩
  · -- SETPS
    obtain ⟨hmask, rfl⟩ := hop
    exact ⟨hmask, congrArg ([·, w1, w2]) (header_eq h rfl rfl rfl)⟩
  · -- VON
    subst hop
    exact ⟨rfl, congrArg ([·]) (header_eq h rfl rfl (setWidth_note htop).symm)⟩
  · -- VOFF
    subst hop
    exact ⟨rfl, congrArg ([·]) (header_eq h rfl rfl haux)⟩
  · -- MOVE
    obtain ⟨hdest, rfl⟩ := hop
    obtain ⟨hopc, hzero⟩ := (move_destination_iff w1).1 hdest
    exact ⟨rfl, congrArg₂ ([·, ·]) (header_eq h rfl rfl haux) (header_eq hopc rfl rfl hzero)⟩
  · -- RESET
    obtain ⟨hmask, rfl⟩ := hop
    exact ⟨hmask, congrArg ([·]) (header_eq h rfl rfl haux)⟩
  · -- REPLACE
    subst hop
    obtain ⟨hc, hlm⟩ := hlanes
    exact ⟨rfl, congrArg ([·]) (header_eq h hc hlm rfl)⟩
  · -- BLOAD
    subst hop
    obtain ⟨hc, hlm⟩ := hlanes
    exact ⟨rfl, congrArg ([·, w1, w2]) (header_eq h hc hlm rfl)⟩
  · -- STAT
    subst hop
    exact ⟨rfl, congrArg ([·]) (header_eq h rfl rfl rfl)⟩

end Sys2Proof
end

section
/-! SUPPORT. What each outcome of the decoder means (`30_encoding.md` R105), and the statements on the encoding. -/

namespace Sys2Proof
open Machine (commandLength)

/-! ### The outcomes of the decoder -/

/-- What makes a command illegal once its words have arrived (`30_encoding.md` R110). -/
def Malformed (v : Nat) (w0 : Word) (rest : List Word) : Prop :=
  12 ≤ w0.opc.toNat ∨ ¬UnusedClear w0 ∨ operandsRead v w0 rest = none

/-- A command of a known opcode whose words have arrived and whose unused bits are zero is what its operands make of
it. -/
theorem decode_of_selected (v : Nat) {w0 : Word} {rest : List Word} {row : OpcodeRow}
    (hrow : opcodeRow w0.opc = some row) (harrived : row.words ≤ rest.length + 1)
    (hsel : w0 &&& row.mask = row.pattern) :
    decode v (w0 :: rest) = (operandsRead v w0 rest).elim (.illegal w0 row.words) (.instr · row.words) := by
  simp only [decode, hrow, Nat.not_lt.2 harrived, hsel, ne_eq, not_true_eq_false, if_false, operandsRead]
  cases decodeOperands v w0 (rest.getD 0 0) (rest.getD 1 0) (rest.getD 2 0) <;> rfl

/-- The decoder waits, answers an illegal command or reads a legal one (`30_encoding.md` R105). -/
theorem decode_cases (v : Nat) (w0 : Word) (rest : List Word) :
    rest.length + 1 < commandLength w0.opc.toNat ∧ decode v (w0 :: rest) = .wait
    ∨ commandLength w0.opc.toNat ≤ rest.length + 1
      ∧ (Malformed v w0 rest ∧ decode v (w0 :: rest) = .illegal w0 (commandLength w0.opc.toNat)
        ∨ ¬Malformed v w0 rest
          ∧ ∃ i, operandsRead v w0 rest = some i
            ∧ decode v (w0 :: rest) = .instr i (commandLength w0.opc.toNat)) := by
  rcases hrow : opcodeRow w0.opc with _ | row
  · have hunknown := opcodeRow_eq_none_iff.1 hrow
    have hone := commandLength_of_unknown hunknown
    exact .inr ⟨by omega, .inl ⟨.inl hunknown, by simp [decode, hrow, hone]⟩⟩
  · have hknown := Nat.not_le.2 (opcode_lt_of_row hrow)
    have hclear := and_mask_eq_pattern_iff hrow
    rw [← words_of_row hrow]
    rcases Nat.lt_or_ge (rest.length + 1) row.words with hshort | harrived
    · exact .inl ⟨hshort, by simp [decode, hrow, hshort]⟩
    · refine .inr ⟨harrived, ?_⟩
      by_cases hsel : w0 &&& row.mask = row.pattern
      · rcases hop : operandsRead v w0 rest with _ | i
        · exact .inl ⟨.inr (.inr hop), by rw [decode_of_selected v hrow harrived hsel, hop]; rfl⟩
        · refine .inr ⟨?_, i, rfl, by rw [decode_of_selected v hrow harrived hsel, hop]; rfl⟩
          simp [Malformed, hknown, hclear.1 hsel, hop]
      · exact .inl ⟨.inr (.inl (mt hclear.2 hsel)), by simp [decode, hrow, hsel, Nat.not_lt.2 harrived]⟩

theorem decode_eq_wait_iff {v : Nat} {w0 : Word} {rest : List Word} :
    decode v (w0 :: rest) = .wait ↔ rest.length + 1 < commandLength w0.opc.toNat := by
  rcases decode_cases v w0 rest with ⟨hshort, heq⟩ | ⟨harrived, ⟨-, heq⟩ | ⟨-, i, -, heq⟩⟩
  · simp [heq, hshort]
  · simp [heq, harrived]
  · simp [heq, harrived]

theorem decode_eq_illegal_iff {v : Nat} {w0 w : Word} {rest : List Word} {len : Nat} :
    decode v (w0 :: rest) = .illegal w len ↔
      commandLength w0.opc.toNat ≤ rest.length + 1 ∧ Malformed v w0 rest
      ∧ w0 = w ∧ commandLength w0.opc.toNat = len := by
  rcases decode_cases v w0 rest with ⟨hshort, heq⟩ | ⟨harrived, ⟨hbad, heq⟩ | ⟨hgood, i, -, heq⟩⟩
  · simp [heq, hshort]
  · simp [heq, harrived, hbad]
  · simp [heq, hgood]

theorem decode_eq_instr_iff {v : Nat} {w0 : Word} {rest : List Word} {i : Instr} {len : Nat} :
    decode v (w0 :: rest) = .instr i len ↔
      commandLength w0.opc.toNat ≤ rest.length + 1 ∧ ¬Malformed v w0 rest
      ∧ operandsRead v w0 rest = some i
      ∧ commandLength w0.opc.toNat = len := by
  rcases decode_cases v w0 rest with ⟨hshort, heq⟩ | ⟨harrived, ⟨hbad, heq⟩ | ⟨hgood, j, hop, heq⟩⟩
  · simp [heq, hshort]
  · simp [heq, hbad]
  · simp [heq, harrived, hgood, hop]

/-! ### Decoding and encoding -/

/-- Every command's words are those of its row (`30_encoding.md` R106). -/
theorem encoding_statement (i : Instr) : Laws.Encoding.Statement i := by
  cases i with
  | nop => exact Laws.Encoding.nop
  | init => exact Laws.Encoding.init _ _ _
  | process => exact Laws.Encoding.process _ _ _ _
  | setp => exact Laws.Encoding.setp _ _ _ _
  | setps => exact Laws.Encoding.setps _ _ _ _ _
  | von => exact Laws.Encoding.von _ _ _
  | voff => exact Laws.Encoding.voff _ _
  | move => exact Laws.Encoding.move _ _ _ _
  | reset => exact Laws.Encoding.reset _ _
  | replace => exact Laws.Encoding.replace _
  | bload => exact Laws.Encoding.bload _ _ _
  | stat => exact Laws.Encoding.stat _ _ _

/-- Settles O1: the header written selects its row with the unused bits clear, and the operands read back. -/
theorem decodeReadsEveryEncoding : Obligations.DecodeReadsEveryEncoding := by
  intro v i rest hwf
  obtain ⟨w0, args, row, henc, hrow, hsel, hwords⟩ := encoding_statement i
  have hlen : commandLength w0.opc.toNat = args.length + 1 := by rw [← words_of_row hrow, hwords]
  have hop := operandsRead_of_encode hwf henc rest
  have hgood : ¬Malformed v w0 (args ++ rest) := by
    rintro (hunknown | hdirty | hnone)
    · exact Nat.not_le.2 (opcode_lt_of_row hrow) hunknown
    · exact hdirty ((and_mask_eq_pattern_iff hrow).1 hsel)
    · exact Option.some_ne_none i (hop.symm.trans hnone)
  rw [henc, List.cons_append]
  exact decode_eq_instr_iff.2 ⟨by simp [hlen], hgood, hop, hlen⟩

/-- The words that the decoder looks at are the front of the stream. -/
theorem take_eq_take_getD {n : Nat} (w0 : Word) {rest : List Word} (hn : n ≤ 4) (harrived : n ≤ rest.length + 1) :
    (w0 :: rest).take n = [w0, rest.getD 0 0, rest.getD 1 0, rest.getD 2 0].take n := by
  refine List.ext_getElem (by simp; omega) fun j hj _ => ?_
  rw [List.length_take, List.length_cons] at hj
  rw [List.getElem_take, List.getElem_take]
  rcases j with _ | _ | _ | _ | j
  · rfl
  · exact (List.getD_eq_getElem _ _ _).symm
  · exact (List.getD_eq_getElem _ _ _).symm
  · exact (List.getD_eq_getElem _ _ _).symm
  · omega

/-- Settles O2: the operands read are those of one well-formed command, and its encoding is the words they were read
from. -/
theorem decodedWordsAreTheEncoding : Obligations.DecodedWordsAreTheEncoding := by
  intro v ws i len hdecode
  rcases ws with _ | ⟨w0, rest⟩
  · cases hdecode
  · obtain ⟨harrived, hgood, hop, rfl⟩ := decode_eq_instr_iff.1 hdecode
    simp only [Malformed, not_or, not_le, not_not] at hgood
    obtain ⟨hlt, hclear, -⟩ := hgood
    obtain ⟨hwf, henc⟩ := encode_of_decodeOperands hlt hclear hop
    have hfour := commandLength_le w0.opc.toNat
    exact ⟨hwf, by simp [henc, hfour], by rw [henc, take_eq_take_getD w0 hfour harrived]⟩

/-- Settles O3: each outcome of the decoder names the length of its opcode. -/
theorem lengthFollowsFromOpcode : Obligations.LengthFollowsFromOpcode := by
  refine fun v w0 rest => ⟨decode_eq_wait_iff, fun w len hillegal => ?_, fun i len hinstr => ?_⟩
  · obtain ⟨-, -, rfl, rfl⟩ := decode_eq_illegal_iff.1 hillegal
    exact ⟨rfl, rfl⟩
  · obtain ⟨-, -, -, rfl⟩ := decode_eq_instr_iff.1 hinstr
    rfl

theorem maskLegal_eq_false_iff {v : Nat} {m : Mask} :
    maskLegal v m = false ↔ ∃ j, v ≤ j ∧ m.getLsbD j = true := by
  rw [Bool.eq_false_iff, ne_eq, Machine.maskLegal_iff, not_lt]
  constructor
  · exact Nat.exists_ge_and_testBit_of_ge_two_pow
  · rintro ⟨j, hvj, hbit⟩
    exact (Nat.pow_le_pow_right two_pos hvj).trans (Nat.ge_two_pow_of_testBit hbit)

theorem not_unusedClear_iff {w : Word} : ¬UnusedClear w ↔
    ((w.opc = 0 ∨ w.opc = 1) ∧ ¬(w.cField = 0 ∧ w.lmField = 0 ∧ w.auxField = 0))
    ∨ ((w.opc = 2 ∨ w.opc = 6 ∨ w.opc = 7 ∨ w.opc = 8) ∧ w.auxField ≠ 0)
    ∨ (w.opc = 5 ∧ w.auxField.getLsbD 7 = true)
    ∨ ((w.opc = 9 ∨ w.opc = 10) ∧ ¬(w.cField = 0 ∧ w.lmField = 0)) := by
  simp only [UnusedClear, not_and_or, Classical.not_imp, Bool.not_eq_false]
  rfl

/-- Settles O4: the clauses of `Malformed` and of the operands that are not read. -/
theorem illegalEncodings : Obligations.IllegalEncodings := by
  intro v w0 w1 rest harrived
  have hillegal : (∃ len, decode v (w0 :: w1 :: rest) = .illegal w0 len) ↔ Malformed v w0 (w1 :: rest) := by
    simp [decode_eq_illegal_iff, harrived]
  rw [hillegal, Malformed, not_unusedClear_iff, operandsRead]
  by_cases hlt : w0.opc.toNat < 12
  · rw [decodeOperands_eq_none_iff hlt, maskLegal_eq_false_iff]
    simp only [List.getD_cons_zero, or_assoc]
  · simp [Nat.le_of_not_lt hlt]

/-- Settles O5: the ten words are evaluated. -/
theorem specWordsDecode : Obligations.SpecWordsDecode := by
  unfold Obligations.SpecWordsDecode
  decide

end Sys2Proof
end

section
/-! SUPPORT. How a step runs the command it decodes (`30_encoding.md` R105, R110), and how every command ends
(R108, R109, `60_exceptions.md` R305). -/

namespace Sys2Proof.Machine

theorem step_of_instr {s : State} {i : Instr} {len : Nat} (hlegal : s.cfg.legal = true)
    (hnext : nextCommand s = .instr i len) : step s = exec i (s.take len) := by
  rw [step, if_pos hlegal, hnext]

theorem step_of_illegal {s : State} {w0 : Word} {len : Nat} (hlegal : s.cfg.legal = true)
    (hnext : nextCommand s = .illegal w0 len) : step s = .next (raised (s.take len) .illegal w0) := by
  rw [step, if_pos hlegal, hnext]
  rfl

/-- Settles O6: the branch of a step for a decoded command. -/
theorem stepRunsDecodedCommand : Obligations.StepRunsDecodedCommand :=
  fun _ _ _ hlegal hdecode => step_of_instr hlegal hdecode

/-- Settles O7: the branch of a step for an illegal command is `raise E_ILLEGAL` on the words taken. -/
theorem stepAnswersIllegalCommand : Obligations.StepAnswersIllegalCommand :=
  fun _ _ _ hlegal hdecode => step_of_illegal hlegal hdecode

/-- A command ends with one answer: a failed check on the state it began with, or `OK` on a state whose responses are
still the old ones. -/
def EndsWithOneAnswer (s t : State) : Prop :=
  (∃ e info, t = raised s e info) ∨ ∃ u payload, u.rspPort = s.rspPort ∧ t = answeredOk u payload

theorem exec_endsWithOneAnswer (i : Instr) (s : State) : ensures (exec i s) (EndsWithOneAnswer s) := by
  have fails : ∀ e info, EndsWithOneAnswer s (raised s e info) := fun e info => .inl ⟨e, info, rfl⟩
  have ok : ∀ {u payload}, u.rspPort = s.rspPort → ensures (respond u payload) (EndsWithOneAnswer s) :=
    fun {u payload} hu => ensures_respond (.inr ⟨u, payload, hu, rfl⟩)
  cases i with
  | nop => exact ok rfl
  | init => exact ensures_checked fails fun _ => ok rfl
  | process => exact ensures_checked fails fun _ => ok rfl
  | setp => exact ensures_checked fails fun _ => ensures_ite (fun _ => ok rfl) (fun _ => ok rfl)
  | setps => exact ensures_checked fails fun _ => ensures_ite (fun _ => ok rfl) (fun _ => ok rfl)
  | von => exact ensures_checked fails fun _ => ok rfl
  | voff => exact ensures_checked fails fun _ => ensures_ite (fun _ => ok rfl) (fun _ => ok rfl)
  | move => exact ensures_checked fails fun _ => ensures_ite (fun _ => ok rfl) (fun _ => ok rfl)
  | reset => exact ensures_checked fails fun _ => ok rfl
  | replace => exact ensures_checked fails fun _ => ok rfl
  | bload => exact ensures_checked fails fun _ => ok rfl
  | stat => exact ensures_ite (fun _ => ensures_checked fails fun _ => ok rfl) (fun _ => ok rfl)

/-- Settles O10: every command answers, and its answer is one response. -/
theorem everyCommandEmitsOneResponse : Obligations.EveryCommandEmitsOneResponse := by
  intro i s
  obtain ⟨t, hexec⟩ := answers_exec i s
  rcases exec_endsWithOneAnswer i s t hexec with ⟨e, info, rfl⟩ | ⟨u, payload, hu, rfl⟩
  · exact ⟨_, errCode e, info, hexec, (errCode_bounds e).2, rfl⟩
  · exact ⟨_, 0, payload, hexec, Nat.zero_le _, by rw [answeredOk, hu]; rfl⟩

end Sys2Proof.Machine
end

section
/-! SUPPORT. The smoother operations cell by cell (`40_smoothers.md` R131 to R137): the exact float cases that R134,
R136 and R137 lean on, and the statements on both smoothers. -/

namespace Sys2Proof.Machine

/-! ### Sums and the unit conversion -/

/-- The place of a sum only matters to the payload of a NaN. -/
theorem fadd_sameF32 (site site' : Site) (x y : F32) : sameF32 (fadd site x y) (fadd site' x y) := by
  have drawn : sameF32 (quietNaN site) (quietNaN site') := .inr ⟨isNaN_quietNaN _, isNaN_quietNaN _⟩
  unfold fadd
  split
  · exact drawn
  split
  · split
    · exact drawn
    · exact sameF32_refl x
  · exact sameF32_refl _

theorem u2f_one : u2f 1 = F32.one := mkF_roundMag_fmag (x := F32.one) (q := 1) rfl Nat.one_pos

/-- `LIN.TICKN` by one sample is `LIN.TICK1` on a cell, because `fmul(inc, 1.0)` is `inc` (`40_smoothers.md` R134). -/
theorem fadd_fmul_u2f_one (s s0 s1 : Site) (cur inc : F32) :
    sameF32 (fadd s0 cur (fmul s1 inc (u2f 1))) (fadd s cur inc) := by
  rw [u2f_one]
  cases hinc : isNaN inc with
  | false =>
    rw [fmul_one s1 hinc]
    exact fadd_sameF32 s0 s cur inc
  | true =>
    obtain ⟨-, -, -, hmul, -⟩ := nan_operand s1 (y := F32.one) (.inl hinc)
    obtain ⟨-, hsum, -⟩ := nan_operand s (x := cur) (.inr hinc)
    obtain ⟨-, hsum', -⟩ := nan_operand s0 (x := cur) (.inr hmul)
    exact .inr ⟨hsum', hsum⟩

/-! ### Positive finite values and their quotients -/

theorem isPosFinite_iff (x : F32) : isPosFinite x = true ↔ flt F32.zero x = true ∧ flt x F32.inf = true :=
  Bool.and_eq_true_iff

/-- What lies between `0.0` and `+inf` is finite and no zero: either infinity has its key at one end of the order. -/
theorem classes_of_isPosFinite {x : F32} (h : isPosFinite x = true) : isFinite x = true ∧ isZero x = false := by
  have hzero : fkey F32.zero = 0 := by decide
  have hinf : fkey F32.inf = 2 ^ 400 := (if_pos (by decide)).trans (if_neg (by decide))
  simp only [isPosFinite, flt, hzero, hinf, Bool.and_eq_true, Bool.not_eq_true', decide_eq_true_eq] at h
  obtain ⟨⟨⟨-, hnan⟩, hpos⟩, ⟨-, hlt⟩⟩ := h
  have hfin : isFinite x = true := by
    refine (isFinite_or_isInf hnan).resolve_right fun hi => ?_
    have hpow : (0 : Int) < 2 ^ 400 := Int.pow_pos (by decide)
    simp only [fkey, hi, if_true] at hpos hlt
    generalize (2 : Int) ^ 400 = top at hpow hpos hlt
    cases hs : fsign x with
    | false => simp [hs] at hlt
    | true =>
      simp only [hs, if_true] at hpos
      omega
  refine ⟨hfin, (fmag_pos_iff x).1 ?_⟩
  simp only [fkey, classes_of_isFinite hfin, Bool.false_eq_true, if_false] at hpos
  rw [← natAbs_fval]
  omega

/-- The quotient of two finite values, the second no zero, is no NaN, so that its place does not matter. -/
theorem fdiv_site (site site' : Site) {a b : F32} (ha : isFinite a = true) (hb : isFinite b = true)
    (h0 : isZero b = false) : fdiv site a b = fdiv site' a b := by
  rw [fdiv_of_finite site ha hb h0, fdiv_of_finite site' ha hb h0]

/-- A finite value that is no zero, by itself, is 1.0. -/
theorem fdiv_self (site : Site) {x : F32} (hx : isFinite x = true) (h0 : isZero x = false) :
    fdiv site x x = F32.one := by
  have hone : lowMag (lowBits F32.one) = 2 ^ 149 ∧ mkF false (lowBits F32.one) = F32.one := by decide
  obtain ⟨hmag, hpattern⟩ := hone
  rw [fdiv_of_finite site hx hx h0, bne_self_eq_false, Nat.mul_comm, ← hmag,
    roundMag_lowMag ((fmag_pos_iff x).2 h0) ((isFinite_iff F32.one).1 rfl), hpattern]

/-! ### The named properties of POW (`00_scope.md` R10) -/

@[simp] theorem pow_one_base (t : F32) : pow F32.one t = F32.one := if_pos rfl

@[simp] theorem pow_one_exponent (b : F32) : pow b F32.one = b := by
  unfold pow
  split
  next hb => exact hb.symm
  next => exact if_pos rfl

/-! ### One cell of `LOG.SET` (`40_smoothers.md` R136) -/

theorem logSetCell_ramp (site : Site) {c : LogCell} {g : F32} (t : F32) (hc : isPosFinite c.cur = true)
    (hg : isPosFinite g = true) : logSetCell c g t = ⟨c.cur, pow (fdiv site g c.cur) t⟩ := by
  obtain ⟨hcfin, hc0⟩ := classes_of_isPosFinite hc
  obtain ⟨hgfin, -⟩ := classes_of_isPosFinite hg
  rw [fdiv_site site [] hgfin hcfin hc0]
  simp [logSetCell, hc, hg]

theorem logSetCell_snap {c : LogCell} {g : F32} (t : F32) (h : ¬(isPosFinite c.cur = true ∧ isPosFinite g = true)) :
    logSetCell c g t = ⟨g, F32.one⟩ :=
  if_neg (by rwa [Bool.and_eq_true])

/-- A ramp to the cell's own value keeps it there. -/
theorem logSetCell_same {c : LogCell} (t : F32) (hc : isPosFinite c.cur = true) :
    logSetCell c c.cur t = ⟨c.cur, F32.one⟩ := by
  obtain ⟨hfin, h0⟩ := classes_of_isPosFinite hc
  rw [logSetCell_ramp [] t hc hc, fdiv_self [] hfin h0, pow_one_base]

/-- The condition of `LOG.SET` as R136 writes it, in four comparisons. -/
theorem isPosFinite_pair_iff (c g : F32) :
    (isPosFinite c = true ∧ isPosFinite g = true) ↔
      flt F32.zero c = true ∧ flt c F32.inf = true ∧ flt F32.zero g = true ∧ flt g F32.inf = true := by
  rw [isPosFinite_iff, isPosFinite_iff, and_assoc]

/-! ### The statements -/

/-- Settles O34: each operation by its law, and TICKN by one sample by `fmul(inc, 1.0) = inc`. -/
theorem linearSmootherCells : Obligations.LinearSmootherCells := by
  intro x target on t n site e c hcell
  have hsnap := linSnap_getElem? x target on e
  have hset := linSet_getElem? site x target t on e
  have htick1 := linTick1_getElem? site x e
  have htickN := fun n => linTickN_getElem? site x n e
  simp only [hcell, Option.map_some] at hsnap hset htick1 htickN
  exact ⟨hsnap, ⟨_, _, hset⟩, ⟨_, htick1⟩, ⟨_, _, htickN n⟩,
    ⟨_, _, htickN 1, htick1, fadd_fmul_u2f_one _ _ _ c.cur c.inc⟩⟩

/-- Settles O35: each operation by its law, and the cell of LOG.SET by its two branches. -/
theorem logSmootherCells : Obligations.LogSmootherCells := by
  intro x target on t site e c hcell
  have hsnap := logSnap_getElem? x target on e
  have hset := fun t => logSet_getElem? x target t on e
  have htick := logTick1_getElem? site x e
  simp only [hcell, Option.map_some] at hsnap hset htick
  refine ⟨hsnap, fun hoff => ?unselected, fun hon => ⟨fun hpos => ?ramp, fun hpos => ?snap⟩, ⟨_, htick⟩,
    fun hfac hnan => ?steady⟩
  case unselected => simp [hset, hoff]
  case ramp =>
    obtain ⟨hc, hg⟩ := (isPosFinite_pair_iff c.cur (target e)).2 hpos
    simp only [hset, hon, if_true]
    refine ⟨?_, ?_, ?_⟩
    · rw [logSetCell_ramp site t hc hg]
    · rintro rfl
      rw [logSetCell_ramp site _ hc hg, pow_one_exponent]
    · intro hsame
      rw [hsame, logSetCell_same t hc]
  case snap =>
    rw [← isPosFinite_pair_iff] at hpos
    rw [hset, if_pos hon, logSetCell_snap t hpos]
  case steady =>
    obtain ⟨cur, fac⟩ := c
    subst hfac
    rw [htick, fmul_one _ hnan]

end Sys2Proof.Machine
end

section
/-! SUPPORT. What REPLACE and BLOAD answer (`41_bank.md` R168, R171): the one register write of REPLACE, the four checks
of BLOAD in their order, where each sample of a loaded frame stands (`20_memory.md` R72), and the statements on both
commands. -/

namespace Sys2Proof.Machine

/-! ### A list of checks, one at a time -/

theorem checked_cons_fail {s : State} {fails : Bool} {e : Err} {info : Word} {rest : List Check}
    {body : Host.Outcome State Fault Refusal} (h : fails = true) :
    checked s ((fails, e, info) :: rest) body = .next (failed s (errCode e) info) := by
  rw [← raised_eq_failed, h]
  rfl

theorem checked_cons_pass {s : State} {fails : Bool} {e : Err} {info : Word} {rest : List Check}
    {body : Host.Outcome State Fault Refusal} (h : fails = false) :
    checked s ((fails, e, info) :: rest) body = checked s rest body := by
  rw [h]
  rfl

/-! ### REPLACE -/

/-- The two fields of status register 4 do not overlap (`10_state.md` R34). -/
theorem toNat_activeBankWord (b : ActiveBank) :
    (activeBankWord b).toNat = (if b.valid then 256 else 0) + b.slot.toNat := by
  have hslot := b.slot.isLt
  have hwide : (b.slot.setWidth 32).toNat = b.slot.toNat := by simp; omega
  rw [activeBankWord, BitVec.toNat_or, hwide]
  cases b.valid with
  | true => exact (Nat.two_pow_add_eq_or_of_lt hslot 1).symm
  | false => simp

theorem exec_replace_of_valid {slot : Field} {s : State} (hlt : slot.toNat < s.cfg.numBankSlots)
    (hvalid : (s.bank slot.toNat).valid = true) :
    exec (.replace slot) s
      = .next { answeredOk s (activeBankWord s.activeBank) with activeBank := ⟨true, slot⟩ } :=
  checked_cons_pass (by simp [hlt, hvalid])

theorem exec_replace_of_invalid {slot : Field} {s : State}
    (h : s.cfg.numBankSlots ≤ slot.toNat ∨ (s.bank slot.toNat).valid = false) :
    exec (.replace slot) s = .next (failed s 6 (slot.setWidth 32)) :=
  checked_cons_fail (by simpa using h)

/-- Settles O22: one check, and the old register as the payload. -/
theorem replaceSwapsTheActiveSlot : Obligations.ReplaceSwapsTheActiveSlot := fun _ s =>
  ⟨fun hlt hvalid => ⟨_, toNat_activeBankWord s.activeBank, exec_replace_of_valid hlt hvalid⟩, exec_replace_of_invalid⟩

/-! ### The checks of BLOAD -/

/-- The slot of a BLOAD exists and is not the active one. -/
def Loadable (s : State) (slot : Field) : Prop :=
  slot.toNat < s.cfg.numBankSlots ∧ ¬(s.activeBank.valid = true ∧ s.activeBank.slot = slot)

/-- The count of a BLOAD is a whole number of frames, at least one and at most `MAX_FRAMES`. -/
def WholeFrames (k : Config) (count : Word) : Prop :=
  count ≠ 0 ∧ count.toNat % k.tableSize = 0 ∧ count.toNat / k.tableSize ≤ k.maxFrames

/-- The state with the frames of a BLOAD in their slot. -/
def State.load (s : State) (slot : Field) (src count : Word) : State :=
  { s with
    banks := s.banks.set slot.toNat
      ⟨true, count.toNat / s.cfg.tableSize, bankData s src.toNat (count.toNat / s.cfg.tableSize)⟩ }

section
variable {slot : Field} {src count : Word} {s : State}

theorem exec_bload_bankSlot (h : ¬Loadable s slot) :
    exec (.bload slot src count) s = .next (failed s 6 (slot.setWidth 32)) := by
  by_cases hslot : s.cfg.numBankSlots ≤ slot.toNat
  · exact checked_cons_fail (by simpa using hslot)
  · have hactive : s.activeBank.valid = true ∧ s.activeBank.slot = slot := by
      by_contra hinactive
      exact h ⟨Nat.lt_of_not_le hslot, hinactive⟩
    exact (checked_cons_pass (by simpa using hslot)).trans (checked_cons_fail (by simpa using hactive))

/-- Past its first two checks a BLOAD makes the other two. -/
theorem exec_bload_of_loadable (h : Loadable s slot) :
    exec (.bload slot src count) s = checked s
      [(decide (s.cfg.importSize < src.toNat + count.toNat), .argRange, count),
        (decide (count.toNat = 0) || decide (count.toNat % s.cfg.tableSize ≠ 0)
          || decide (s.cfg.maxFrames < count.toNat / s.cfg.tableSize), .bankFormat, count)]
      (.next (answeredOk (s.load slot src count) (BitVec.ofNat 32 (count.toNat / s.cfg.tableSize)))) := by
  obtain ⟨hslot, hactive⟩ := h
  exact (checked_cons_pass (by simpa using hslot)).trans (checked_cons_pass (by simpa using hactive))

theorem exec_bload_argRange (h : Loadable s slot) (hwindow : s.cfg.importSize < src.toNat + count.toNat) :
    exec (.bload slot src count) s = .next (failed s 7 count) := by
  rw [exec_bload_of_loadable h]
  exact checked_cons_fail (by simpa using hwindow)

theorem badCount_eq_false_iff (k : Config) (count : Word) :
    (decide (count.toNat = 0) || decide (count.toNat % k.tableSize ≠ 0)
      || decide (k.maxFrames < count.toNat / k.tableSize)) = false ↔ WholeFrames k count := by
  have hzero : count.toNat = 0 ↔ count = 0 := (BitVec.toNat_eq (y := 0)).symm
  simp only [WholeFrames, Bool.or_eq_false_iff, decide_eq_false_iff_not, hzero, not_not, not_lt, and_assoc, ne_eq]

theorem exec_bload_bankFormat (h : Loadable s slot) (hwindow : src.toNat + count.toNat ≤ s.cfg.importSize)
    (hcount : ¬WholeFrames s.cfg count) : exec (.bload slot src count) s = .next (failed s 5 count) := by
  rw [exec_bload_of_loadable h]
  rw [← badCount_eq_false_iff, Bool.not_eq_false] at hcount
  exact (checked_cons_pass (by simpa using hwindow)).trans (checked_cons_fail hcount)

theorem exec_bload_ok (h : Loadable s slot) (hwindow : src.toNat + count.toNat ≤ s.cfg.importSize)
    (hcount : WholeFrames s.cfg count) : exec (.bload slot src count) s
      = .next (answeredOk (s.load slot src count) (BitVec.ofNat 32 (count.toNat / s.cfg.tableSize))) := by
  rw [exec_bload_of_loadable h]
  exact (checked_cons_pass (by simpa using hwindow)).trans
    (checked_cons_pass ((badCount_eq_false_iff _ _).2 hcount))

end

/-- Settles O25: one lemma for each check. -/
theorem bloadErrorsInOrder : Obligations.BloadErrorsInOrder := by
  intro slot src count s
  refine ⟨fun hslot => exec_bload_bankSlot fun ⟨hlt, hactive⟩ => hslot.elim (by omega) hactive,
    fun hlt hactive => exec_bload_argRange ⟨hlt, hactive⟩,
    fun hlt hactive hwindow hcount => exec_bload_bankFormat ⟨hlt, hactive⟩ hwindow ?_⟩
  rintro ⟨hsome, hwhole, hmax⟩
  rcases hcount with hzero | hpart | hmany
  · exact hsome hzero
  · exact hpart hwhole
  · omega

/-! ### The samples of a loaded slot -/

/-- Element b of block a, where every block of a concatenation has L elements. -/
theorem getElem?_flatMap_range {α : Type} {g : Nat → List α} {L n a b : Nat} (hlen : ∀ x, (g x).length = L)
    (ha : a < n) (hb : b < L) : ((List.range n).flatMap g)[a * L + b]? = (g a)[b]? := by
  induction n with
  | zero => omega
  | succ n ih =>
    have hpre : ((List.range n).flatMap g).length = n * L := by simp [List.length_flatMap, hlen]
    rw [List.range_succ, List.flatMap_append, List.flatMap_singleton]
    rcases Nat.lt_or_eq_of_le (Nat.le_of_lt_succ ha) with hlt | rfl
    · have hin : a * L + b < n * L := by
        calc a * L + b < (a + 1) * L := by rw [Nat.add_mul]; omega
          _ ≤ n * L := Nat.mul_le_mul_right L hlt
      rw [List.getElem?_append_left (by omega), ih hlt]
    · rw [List.getElem?_append_right (by omega), hpre, Nat.add_sub_cancel_left]

/-- Sample i of level m of a frame (`20_memory.md` R72). -/
theorem frameData_getElem? (k : Config) (frame : List F32) {m i : Nat} (hm : m < k.numMipmaps)
    (hi : i < k.tableSize) : (frameData k frame)[m * k.tableSize + i]? = some (buildMipmap k frame m i) := by
  rw [frameData, getElem?_flatMap_range (by simp) hm hi]
  simp [hi]

/-- Sample i of level m of frame f of a slot stands at `bank_addr(f, m, i)` (`20_memory.md` R72). -/
theorem bankData_getElem? (s : State) (src : Nat) {frames f m i : Nat} (hf : f < frames)
    (hm : m < s.cfg.numMipmaps) (hi : i < s.cfg.tableSize) :
    (bankData s src frames)[bankAddr s.cfg f m i]? = some (buildMipmap s.cfg (importFrame s src f) m i) := by
  have haddr : bankAddr s.cfg f m i = f * (s.cfg.numMipmaps * s.cfg.tableSize) + (m * s.cfg.tableSize + i) := by
    rw [bankAddr]; ring
  have hrow : m * s.cfg.tableSize + i < s.cfg.numMipmaps * s.cfg.tableSize := by
    calc m * s.cfg.tableSize + i < (m + 1) * s.cfg.tableSize := by rw [Nat.add_mul]; omega
      _ ≤ s.cfg.numMipmaps * s.cfg.tableSize := Nat.mul_le_mul_right _ hm
  rw [haddr, bankData, getElem?_flatMap_range (by simp [frameData, List.length_flatMap]) hf hrow,
    frameData_getElem? _ _ hm hi]

@[simp] theorem answeredOk_bank (s : State) (payload : Word) (n : Nat) : (answeredOk s payload).bank n = s.bank n := rfl

/-- The slot that a BLOAD has written. -/
theorem bank_load {s : State} {slot : Field} (src count : Word) (h : slot.toNat < s.banks.length) :
    (s.load slot src count).bank slot.toNat
      = ⟨true, count.toNat / s.cfg.tableSize, bankData s src.toNat (count.toNat / s.cfg.tableSize)⟩ := by
  simp [State.bank, State.load, h]

/-- Settles O23: every check passes, and each sample stands at its address. -/
theorem bloadBuildsTheSlot : Obligations.BloadBuildsTheSlot := by
  intro slot src count s hinv hslot hactive hwindow hsome hwhole hmax
  have hbank := bank_load src count (slot := slot) (by rwa [(State.inv_iff.1 hinv).banks_length])
  refine ⟨_, exec_bload_ok ⟨hslot, hactive⟩ hwindow ⟨hsome, hwhole, hmax⟩, rfl, List.length_set,
    fun j hj => List.getElem?_set_ne hj.symm, ?valid, ?frames, ?size, fun f m i hf hm hi => ?sample⟩
  all_goals rw [answeredOk_bank, hbank]
  case size => exact bankData_length _ _ _
  case sample => exact bankData_getElem? s src.toNat hf (Nat.lt_succ_of_le hm) hi

/-- A BLOAD loads its slot or fails with an error. -/
theorem exec_bload_cases (slot : Field) (src count : Word) (s : State) :
    (Loadable s slot ∧ exec (.bload slot src count) s
      = .next (answeredOk (s.load slot src count) (BitVec.ofNat 32 (count.toNat / s.cfg.tableSize))))
    ∨ ∃ e info, exec (.bload slot src count) s = .next (raised s e info) := by
  by_cases h : Loadable s slot
  · rw [exec_bload_of_loadable h]
    rcases checked_cases s _ _ with ⟨hbody, -⟩ | ⟨e, info, -, hraised⟩
    · exact .inl ⟨h, hbody⟩
    · exact .inr ⟨e, info, hraised⟩
  · exact .inr ⟨.bankSlot, _, (exec_bload_bankSlot h).trans (by rw [raised_eq_failed]; rfl)⟩

/-- No error has the status `OK` (`60_exceptions.md` R301). -/
theorem raised_not_ok {s : State} {e : Err} {info w : Word} : (raised s e info).rspPort ≠ s.rspPort ++ [0, w] := by
  have hstatus : rsp0 (errCode e) ≠ 0 := by cases e <;> decide
  rw [raised_rspPort, ne_eq, List.append_cancel_left_eq, List.cons_eq_cons, not_and]
  exact fun h => absurd h hstatus

/-- Settles O24: the slot was loaded, and level `NUM_OCTAVES` is the one that no transform touches. -/
theorem fullLevelIsTheImportedFrame : Obligations.FullLevelIsTheImportedFrame := by
  rintro slot src count s t hinv hexec ⟨w, hok⟩ f i hf hi
  rcases exec_bload_cases slot src count s with ⟨⟨hslot, -⟩, hload⟩ | ⟨e, info, hraised⟩
  · obtain rfl := Host.Outcome.next.inj (hexec.symm.trans hload)
    rw [answeredOk_bank, bank_load src count (by rwa [(State.inv_iff.1 hinv).banks_length]), BankSlot.read,
      List.getD_eq_getElem?_getD, bankData_getElem? s src.toNat hf (Nat.lt_succ_self _) hi]
    simp [buildMipmap, importFrame, hi]
  · obtain rfl := Host.Outcome.next.inj (hexec.symm.trans hraised)
    exact absurd hok raised_not_ok

end Sys2Proof.Machine
end

section
/-! SUPPORT. The level of an increment (`41_bank.md` R158, R163, R164): it is at least m exactly when the increment is
below 2^(32−m), from which its corners, its monotonicity and the bound on its partials follow. -/

namespace Sys2Proof.Machine

theorem le_clz32_iff {m : Nat} (hm : m ≤ 32) (d : Word) : m ≤ clz32 d ↔ d.toNat < 2 ^ (32 - m) := by
  have hd := d.isLt
  unfold clz32
  split
  next h0 => simp [h0, hm]
  next h0 =>
    have hlog : Nat.log2 d.toNat < 32 := (Nat.log2_lt h0).2 hd
    rw [← Nat.log2_lt h0]
    omega

/-- `LEVEL` by the increments it is reached at (`41_bank.md` R158). -/
theorem le_level_iff {k : Config} (hk : k.legal = true) {m : Nat} (hm : m ≤ k.numOctaves) (d : Word) :
    m ≤ level k d ↔ d.toNat < 2 ^ (32 - m) := by
  have := numOctaves_le_of_legal hk
  rw [← le_clz32_iff (by omega), level, le_min_iff, and_iff_right hm]

theorem level_le (k : Config) (d : Word) : level k d ≤ k.numOctaves := Nat.min_le_left _ _

theorem lt_of_level {k : Config} (hk : k.legal = true) (d : Word) : d.toNat < 2 ^ (32 - level k d) :=
  (le_level_iff hk (level_le k d) d).1 le_rfl

theorem level_eq_numOctaves {k : Config} (hk : k.legal = true) {d : Word} (h : d.toNat < 2 ^ (32 - k.numOctaves)) :
    level k d = k.numOctaves :=
  le_antisymm (level_le k d) ((le_level_iff hk le_rfl d).2 h)

theorem level_eq_zero {k : Config} (hk : k.legal = true) {d : Word} (h : 2 ^ 31 ≤ d.toNat) : level k d = 0 := by
  by_contra hpos
  have hone : 1 ≤ level k d := Nat.pos_of_ne_zero hpos
  have := (le_level_iff hk (hone.trans (level_le k d)) d).1 hone
  omega

/-- In between, the level is the number of leading zeros of the increment. -/
theorem pow_le_of_level {k : Config} (hk : k.legal = true) {d : Word} (h : 2 ^ (32 - k.numOctaves) ≤ d.toNat) :
    2 ^ (31 - level k d) ≤ d.toNat := by
  have hlt : level k d < k.numOctaves := by
    rw [← not_le, le_level_iff hk le_rfl]
    omega
  have hnext := (le_level_iff hk (Nat.succ_le_of_lt hlt) d).not.1 (Nat.not_succ_le_self _)
  rwa [not_lt, Nat.sub_succ' 32, Nat.sub_right_comm] at hnext

theorem level_antitone {k : Config} (hk : k.legal = true) {d d' : Word} (h : d.toNat ≤ d'.toNat) :
    level k d' ≤ level k d :=
  (le_level_iff hk (level_le k d') d).2 (h.trans_lt (lt_of_level hk d'))

theorem partials_mono {m m' : Nat} (h : m ≤ m') : partials m ≤ partials m' :=
  Nat.div_le_div_right (Nat.pow_le_pow_right (by decide) h)

/-- Settles O27: each clause from the increments at which a level is reached. -/
theorem levelFallsWithTheIncrement : Obligations.LevelFallsWithTheIncrement := by
  intro k d d' hk
  refine ⟨level_le k d, ?_, level_eq_zero hk, level_eq_numOctaves hk,
    fun h => ⟨pow_le_of_level hk h, lt_of_level hk d⟩,
    fun h => ⟨level_antitone hk h, partials_mono (level_antitone hk h)⟩⟩
  rintro rfl
  exact level_eq_numOctaves hk (Nat.two_pow_pos _)

/-- A partial of level m is at most half of 2^m. -/
theorem partial_mul_lt {m h d j : Nat} (hh : h ≤ partials m) (hd : d < 2 ^ j) : 2 * (h * d) < 2 ^ (m + j) := by
  calc 2 * (h * d) = 2 * h * d := (Nat.mul_assoc 2 h d).symm
    _ ≤ 2 ^ m * d := Nat.mul_le_mul_right d (by unfold partials at hh; omega)
    _ < 2 ^ m * 2 ^ j := Nat.mul_lt_mul_of_pos_left hd (Nat.two_pow_pos m)
    _ = 2 ^ (m + j) := (pow_add 2 m j).symm

/-- Settles O28: the increment is below 2^(32−m) at level m, and the level is at most `NUM_OCTAVES`. -/
theorem noSelectedPartialReachesNyquist : Obligations.NoSelectedPartialReachesNyquist := by
  intro k d h hk hh
  have hmax := numOctaves_le_of_legal hk
  have hlevel := level_le k d
  constructor
  · have hlt := partial_mul_lt hh (lt_of_level hk d)
    rw [show level k d + (32 - level k d) = 32 by omega] at hlt
    omega
  · intro hlow
    have hlt : 2 * (h * d.toNat) < 2 ^ 31 :=
      (partial_mul_lt hh hlow).trans_le (Nat.pow_le_pow_right (by decide) (by omega))
    omega

end Sys2Proof.Machine
end

section
/-! SUPPORT. The fraction of a phase (`41_bank.md` R159): the low bits as a float have a unit that leaves room for the
scale, so that the product is exact; and the lookup on a table point (R160). -/

namespace Sys2Proof.Machine

/-! ### The low bits as a float -/

theorem fval_of_nonneg {x : F32} (h : fsign x = false) : fval x = fmag x := by
  simp [fval, h]

theorem eq_of_fmag_eq {x y : F32} (hsign : fsign x = fsign y) (hmag : fmag x = fmag y) : x = y := by
  rw [fmag_eq_lowMag, fmag_eq_lowMag] at hmag
  rw [← mkF_fsign_lowBits x, ← mkF_fsign_lowBits y, hsign, lowMag_strictMono.injective hmag]

theorem lowBits_u2f (n : Nat) : lowBits (u2f n) = roundMag (n * 2 ^ 149) 1 :=
  lowBits_mkF _ _ (by have := roundMag_le (n * 2 ^ 149) 1; omega)

theorem roundMag_u2f_finite {n : Nat} (h : n < 2 ^ 32) : roundMag (n * 2 ^ 149) 1 < 255 * 2 ^ 23 := by
  rw [roundMag_finite_iff _ _ Nat.one_pos]
  omega

theorem isFinite_u2f {n : Nat} (h : n < 2 ^ 32) : isFinite (u2f n) = true := by
  rw [isFinite_iff, lowBits_u2f]
  exact roundMag_u2f_finite h

theorem fmag_u2f_eq_roundSig {n : Nat} (h : n < 2 ^ 32) :
    fmag (u2f n) = roundSig (n * 2 ^ 149) 1 * 2 ^ roundExp (n * 2 ^ 149) 1 := by
  rw [fmag_eq_lowMag, lowBits_u2f, lowMag_roundMag (roundMag_u2f_finite h)]

/-- A number that is not zero is rounded at a unit of its own binary order. -/
theorem roundExp_u2f {n j : Nat} (hlo : 2 ^ j ≤ n) (hhi : n < 2 ^ (j + 1)) : roundExp (n * 2 ^ 149) 1 = j + 126 := by
  have hlog : Nat.log2 (n * 2 ^ 149) = j + 149 := by
    have hpos : n * 2 ^ 149 ≠ 0 := by have := Nat.two_pow_pos j; omega
    rw [Nat.log2_eq_iff hpos, pow_add, show j + 149 + 1 = j + 1 + 149 by omega, pow_add _ (j + 1)]
    exact ⟨Nat.mul_le_mul_right _ hlo, Nat.mul_lt_mul_of_pos_right hhi (Nat.two_pow_pos _)⟩
  rw [roundExp, Nat.div_one, hlog]
  omega

/-- A u32 as a float is a significand at an exponent of at least 126 units, that is, at least 2^−23. -/
theorem fmag_u2f_scaled {n : Nat} (h : n < 2 ^ 32) :
    ∃ m j, m < 2 ^ 24 ∧ 126 ≤ j ∧ j ≤ 253 ∧ fmag (u2f n) = m * 2 ^ j := by
  rcases Nat.eq_zero_or_pos n with rfl | hpos
  · exact ⟨0, 126, by decide, le_rfl, by decide, by rw [(fmag_u2f (by decide)).2]; rfl⟩
  have hfin := roundMag_u2f_finite h
  have hround := roundMag_of_finite hfin
  have hexp := roundExp_u2f (Nat.log2_self_le hpos.ne') Nat.lt_log2_self
  have hsig := (roundSig_bounds (n * 2 ^ 149) 1).2
  obtain ⟨e, m, hlow, hm, hnorm⟩ := exists_scaled (roundMag (n * 2 ^ 149) 1)
  refine ⟨m, e, hm, by omega, by omega, ?_⟩
  rw [fmag_eq_lowMag, lowBits_u2f, hlow, lowMag_scaled e m (by omega) hnorm]

/-- The significand carries into the next exponent from the middle below it on. -/
theorem roundSig_lt_iff (p : Nat) {q : Nat} (hq : 0 < q) :
    roundSig p q < 2 ^ 24 ↔ 2 * p < (2 ^ 25 - 1) * (q * 2 ^ roundExp p q) :=
  nearestInt_lt_iff (Nat.mul_pos hq (Nat.two_pow_pos _)) (quotient_bounds p q).1

/-- A number of more than 24 bits below 2^(c+25) rounds up to that power from half a unit, 2^c, below it on. -/
theorem fmag_u2f_eq_pow_iff {n c : Nat} (hc : c ≤ 7) (h : n < 2 ^ (c + 25)) :
    fmag (u2f n) = 2 ^ (c + 174) ↔ 2 ^ (c + 25) ≤ n + 2 ^ c := by
  have hn : n < 2 ^ 32 := h.trans_le (Nat.pow_le_pow_right (by decide) (by omega))
  obtain ⟨hsig, -⟩ := roundSig_bounds (n * 2 ^ 149) 1
  have hcarry := roundSig_lt_iff (n * 2 ^ 149) Nat.one_pos
  have hpow24 : 2 ^ (c + 24) = 2 ^ 24 * 2 ^ c := by ring
  have hpow25 : 2 ^ (c + 25) = 2 ^ 25 * 2 ^ c := by ring
  have hpow150 : 2 ^ (c + 24 + 126) = 2 ^ 150 * 2 ^ c := by ring
  rw [fmag_u2f_eq_roundSig hn]
  rcases Nat.lt_or_ge n (2 ^ (c + 24)) with hlow | hhigh
  · have hexp : 2 ^ roundExp (n * 2 ^ 149) 1 ≤ 2 ^ (c + 149) := by
      refine Nat.pow_le_pow_right (by decide) ?_
      rcases Nat.eq_zero_or_pos n with rfl | hpos
      · simp [roundExp]
      · have hlog := (Nat.log2_lt hpos.ne').2 hlow
        rw [roundExp_u2f (Nat.log2_self_le hpos.ne') Nat.lt_log2_self]
        omega
    refine iff_of_false (Nat.ne_of_lt ?_) (by have := Nat.two_pow_pos c; omega)
    calc roundSig (n * 2 ^ 149) 1 * 2 ^ roundExp (n * 2 ^ 149) 1
        ≤ 2 ^ 24 * 2 ^ (c + 149) := Nat.mul_le_mul hsig hexp
      _ < 2 ^ 25 * 2 ^ (c + 149) := Nat.mul_lt_mul_of_pos_right (by decide) (Nat.two_pow_pos _)
      _ = 2 ^ (c + 174) := by rw [← pow_add, Nat.add_comm 25]
  · have hunit : 2 ^ (c + 174) = 2 ^ 24 * 2 ^ (c + 24 + 126) := by rw [← pow_add, Nat.add_comm 24]
    rw [roundExp_u2f hhigh h] at hcarry ⊢
    rw [hunit, Nat.mul_left_inj (Nat.two_pow_pos _).ne']
    omega

/-! ### The fraction of a phase -/

theorem numOctaves_pos_of_legal {k : Config} (h : k.legal = true) : 1 ≤ k.numOctaves := by
  simp only [Config.legal, Bool.and_eq_true, decide_eq_true_eq] at h
  tauto

theorem fracBits_bounds {k : Config} (hk : k.legal = true) : 1 ≤ k.fracBits ∧ k.fracBits ≤ 31 := by
  have := numOctaves_le_of_legal hk
  have := numOctaves_pos_of_legal hk
  unfold Config.fracBits
  omega

theorem fracScale_spec {k : Config} (hk : k.legal = true) :
    isFinite (fracScale k) = true ∧ fsign (fracScale k) = false ∧ fmag (fracScale k) = 2 ^ (149 - k.fracBits) := by
  obtain ⟨hlo, hhi⟩ := fracBits_bounds hk
  have hpattern : fracScale k = mkF false ((126 - k.fracBits) * 2 ^ 23 + 2 ^ 23) := by
    rw [fracScale, mkF, if_neg Bool.false_ne_true, Nat.zero_add, ← Nat.succ_mul, Nat.succ_eq_add_one,
      ← Nat.sub_add_comm (by omega)]
  have hlow : (126 - k.fracBits) * 2 ^ 23 + 2 ^ 23 < 255 * 2 ^ 23 := by omega
  rw [hpattern, isFinite_iff, fsign_mkF _ _ (by omega), fmag_eq_lowMag, lowBits_mkF _ _ (by omega),
    lowMag_scaled _ _ (by decide) (.inr le_rfl), ← pow_add]
  exact ⟨hlow, rfl, by congr 1; omega⟩

/-- The low bits of a phase, below its table index. -/
theorem fracOf_lt (k : Config) (phase : Word) : phase.toNat % 2 ^ k.fracBits < 2 ^ k.fracBits :=
  Nat.mod_lt _ (Nat.two_pow_pos _)

/-- The fraction is the float of the low bits, scaled without rounding (`41_bank.md` R159). -/
theorem splitFrac_spec {k : Config} (hk : k.legal = true) (phase : Word) :
    isFinite (splitFrac k phase) = true ∧ fsign (splitFrac k phase) = false
    ∧ fmag (splitFrac k phase) * 2 ^ k.fracBits = fmag (u2f (phase.toNat % 2 ^ k.fracBits)) := by
  obtain ⟨hlo, hhi⟩ := fracBits_bounds hk
  obtain ⟨hscale, hpos, hmag⟩ := fracScale_spec hk
  have hn : phase.toNat % 2 ^ k.fracBits < 2 ^ 32 :=
    (fracOf_lt k phase).trans_le (Nat.pow_le_pow_right (by decide) (by omega))
  obtain ⟨m, j, hm, hj, hj', hscaled⟩ := fmag_u2f_scaled hn
  have hsplit : splitFrac k phase = mkF false
      (roundMag (fmag (u2f (phase.toNat % 2 ^ k.fracBits)) * 2 ^ (149 - k.fracBits)) (2 ^ 149)) := by
    rw [splitFrac, fmul_of_finite [] (isFinite_u2f hn) hscale, fsign_u2f, hpos, hmag]
    rfl
  have hexact : m * 2 ^ j * 2 ^ (149 - k.fracBits) = m * 2 ^ (j - k.fracBits) * 2 ^ 149 := by
    rw [Nat.mul_assoc, Nat.mul_assoc, ← pow_add, ← pow_add]
    congr 2
    omega
  obtain ⟨hfin, hround⟩ := lowMag_roundMag_of_exact (Nat.two_pow_pos 149) hm (by omega) hexact
  have hback : m * 2 ^ (j - k.fracBits) * 2 ^ k.fracBits = m * 2 ^ j := by
    rw [Nat.mul_assoc, ← pow_add, Nat.sub_add_cancel (by omega)]
  rw [hsplit, hscaled, isFinite_iff, fsign_mkF _ _ (by omega), fmag_eq_lowMag, lowBits_mkF _ _ (by omega), hround]
  exact ⟨hfin, rfl, hback⟩

theorem splitFrac_eq_one_iff {k : Config} (hk : k.legal = true) (h8 : k.numOctaves < 8) (phase : Word) :
    splitFrac k phase = F32.one ↔
      2 ^ k.fracBits ≤ phase.toNat % 2 ^ k.fracBits + 2 ^ (7 - k.numOctaves) := by
  obtain ⟨-, hpos, hmag⟩ := splitFrac_spec hk phase
  have hone : fsign F32.one = false ∧ fmag F32.one = 2 ^ 149 := by decide
  have hbits : k.fracBits = 7 - k.numOctaves + 25 := by unfold Config.fracBits; omega
  have hlt := fracOf_lt k phase
  calc splitFrac k phase = F32.one
      ↔ fmag (splitFrac k phase) = 2 ^ 149 :=
        ⟨fun h => h ▸ hone.2, fun h => eq_of_fmag_eq (hpos.trans hone.1.symm) (h.trans hone.2.symm)⟩
    _ ↔ fmag (splitFrac k phase) * 2 ^ k.fracBits = 2 ^ 149 * 2 ^ k.fracBits :=
        (Nat.mul_left_inj (Nat.two_pow_pos _).ne').symm
    _ ↔ fmag (u2f (phase.toNat % 2 ^ k.fracBits)) = 2 ^ (7 - k.numOctaves + 174) := by
        rw [hmag, ← pow_add, hbits, show 149 + (7 - k.numOctaves + 25) = 7 - k.numOctaves + 174 by omega]
    _ ↔ _ := by
        rw [hbits] at hlt ⊢
        exact fmag_u2f_eq_pow_iff (by omega) hlt

/-! ### The lookup on a table point -/

/-- Adding a zero of either sign keeps a number other than -0.0. -/
theorem fadd_isZero (site : Site) {x z : F32} (hx : isFinite x = true) (hx0 : x ≠ 0x80000000)
    (hz : isZero z = true) : fadd site x z = x := by
  have hpos : fval x = 0 → fsign x = false := by
    intro h0
    have hpattern := mkF_fsign_lowBits x
    rw [(isZero_iff x).1 (isZero_of_fval_zero h0)] at hpattern
    cases hs : fsign x with
    | false => rfl
    | true => exact absurd (by rw [← hpattern, hs]; rfl) hx0
  have hval : fval z = fval F32.zero := by
    rw [fval_eq_withSign, (isZero_iff z).1 hz]
    cases fsign z <;> rfl
  have hzero : fval F32.zero = 0 := rfl
  calc fadd site x z = fadd site x F32.zero := by
        rw [fadd_of_finite site hx (isFinite_of_isZero hz), fadd_of_finite site hx rfl, hval, hzero, Int.add_zero]
        split
        next h0 => rw [hpos h0, Bool.false_and, Bool.false_and]
        next => rfl
    _ = x := fadd_zero site (classes_of_isFinite hx).1 hx0

theorem isFinite_fsub_site {site : Site} (site' : Site) {x y : F32} (h : isFinite (fsub site x y) = true) :
    isFinite (fsub site' x y) = true := by
  rcases fadd_sameF32 site site' x (fnegate y) with heq | ⟨hnan, -⟩
  · rwa [fsub, ← heq]
  · rw [fsub] at h
    exact absurd hnan (by simp [classes_of_isFinite h])

/-- On a table point the fraction is zero, so that the lookup adds a zero to the sample (`41_bank.md` R160). -/
theorem resample_of_frac_zero {k : Config} {site : Site} {b : BankSlot} {d phase : Word} {fi : Nat} {x y : F32}
    (hx : b.read ((level k d + fi * k.numMipmaps) * k.tableSize + splitIdx k phase) = x)
    (hy : b.read ((level k d + fi * k.numMipmaps) * k.tableSize + (splitIdx k phase + 1) % k.tableSize) = y)
    (hfrac : splitFrac k phase = F32.zero) (hfin : isFinite x = true) (hdiff : isFinite (fsub site y x) = true)
    (hx0 : x ≠ 0x80000000) : resample k site b d fi phase = x := by
  rw [resample, hx, hy, hfrac]
  exact fadd_isZero _ hfin hx0 (fmul_zero _ (isFinite_fsub_site _ hdiff))

/-- Settles O30: the index and the fraction by the two halves of a phase, the lookup by its definition. -/
theorem lookupReadsAndInterpolates : Obligations.LookupReadsAndInterpolates := by
  intro k b d phase fi site hk base idx fr x y
  obtain ⟨hfin, hpos, hmag⟩ := splitFrac_spec hk phase
  have hlt : fr < 2 ^ k.fracBits := fracOf_lt k phase
  refine ⟨splitIdx_lt hk phase, hfin, ?scaled, fun h8 => ?exact, fun h8 => splitFrac_eq_one_iff hk h8 phase,
    ⟨_, _, _, rfl⟩, fun h0 => resample_of_frac_zero rfl rfl ?zero⟩
  case scaled =>
    rw [fval_of_nonneg hpos, fval_of_nonneg (fsign_u2f _)]
    exact_mod_cast hmag
  case exact =>
    have h24 : fr < 2 ^ 24 := hlt.trans_le (Nat.pow_le_pow_right (by decide) (by unfold Config.fracBits; omega))
    rw [fval_of_nonneg (fsign_u2f _), (fmag_u2f h24).2]
    push_cast
    rfl
  case zero =>
    have hlow : phase.toNat % 2 ^ k.fracBits = 0 := h0
    rw [hlow, (fmag_u2f (by decide)).2, Nat.zero_mul] at hmag
    exact eq_of_fmag_eq hpos ((Nat.mul_eq_zero.1 hmag).resolve_right (Nat.two_pow_pos _).ne')

end Sys2Proof.Machine
end

section
/-! SUPPORT. The cosines of the transform (`41_bank.md` R153): their reduction to the first quadrant, and the error of
the fixed-point cosines, which one half-angle step multiplies by at most 2^o because a cosine of a table is no smaller than
2^−o (assumption 10). -/

namespace Sys2Proof.Machine

/-! ### The cosines of a table -/

/-- `cos(2π·j/T)` for a table of T = 2^octaves samples. -/
noncomputable def tableCos (octaves j : Nat) : ℝ := Real.cos (2 * Real.pi * j / 2 ^ octaves)

@[simp] theorem tableCos_zero (o : Nat) : tableCos o 0 = 1 := by simp [tableCos]

/-- The angle of a whole number of turns more. -/
theorem tableCos_add_mul (o a n : Nat) : tableCos o (a + 2 ^ o * n) = tableCos o a := by
  have hangle : 2 * Real.pi * (a + 2 ^ o * n : Nat) / 2 ^ o = 2 * Real.pi * a / 2 ^ o + n * (2 * Real.pi) := by
    push_cast
    field_simp
  rw [tableCos, tableCos, hangle, Real.cos_add_nat_mul_two_pi]

theorem tableCos_mod (o j : Nat) : tableCos o (j % 2 ^ o) = tableCos o j := by
  conv_rhs => rw [← Nat.mod_add_div j (2 ^ o), tableCos_add_mul]

theorem tableCos_turn_sub {o a : Nat} (h : a ≤ 2 ^ o) : tableCos o (2 ^ o - a) = tableCos o a := by
  have hangle : 2 * Real.pi * (2 ^ o - a : Nat) / 2 ^ o = 2 * Real.pi - 2 * Real.pi * a / 2 ^ o := by
    rw [Nat.cast_sub h]
    push_cast
    field_simp
  rw [tableCos, tableCos, hangle, Real.cos_two_pi_sub]

theorem tableCos_half_sub {o a h : Nat} (hh : 2 ^ o = 2 * h) (ha : a ≤ h) : tableCos o (h - a) = -tableCos o a := by
  have hsize : (2 : ℝ) ^ o = 2 * h := by exact_mod_cast hh
  have hpos : (h : ℝ) ≠ 0 := by
    have := Nat.two_pow_pos o
    exact_mod_cast (by omega : h ≠ 0)
  have hangle : 2 * Real.pi * (h - a : Nat) / 2 ^ o = Real.pi - 2 * Real.pi * a / 2 ^ o := by
    rw [Nat.cast_sub ha, hsize]
    field_simp
  rw [tableCos, tableCos, hangle, Real.cos_pi_sub]

theorem tableCos_quarter {o a : Nat} (h : 4 * a = 2 ^ o) : tableCos o a = 0 := by
  have hsize : (2 : ℝ) ^ o = 4 * a := by exact_mod_cast h.symm
  have hpos : (a : ℝ) ≠ 0 := by
    have := Nat.two_pow_pos o
    exact_mod_cast (by omega : a ≠ 0)
  have hangle : 2 * Real.pi * a / 2 ^ o = Real.pi / 2 := by
    rw [hsize]
    field_simp
    norm_num
  rw [tableCos, hangle, Real.cos_pi_div_two]

/-- Half the index on half the table is the same angle. -/
theorem tableCos_double (o j : Nat) : tableCos (o + 1) (2 * j) = tableCos o j := by
  have hangle : 2 * Real.pi * (2 * j : Nat) / 2 ^ (o + 1) = 2 * Real.pi * j / 2 ^ o := by
    push_cast
    rw [pow_succ]
    field_simp
  rw [tableCos, tableCos, hangle]

/-- The half-angle formula. -/
theorem tableCos_sq (o j : Nat) : tableCos (o + 1) j ^ 2 = (1 + tableCos o j) / 2 := by
  rw [tableCos, Real.cos_sq, ← tableCos_double, tableCos]
  push_cast
  ring_nf

/-- In the first quadrant a cosine of the table is not small. -/
theorem tableCos_ge {o j : Nat} (h : 4 * j < 2 ^ o) : 1 / 2 ^ o ≤ tableCos o j := by
  have hsize : (4 * j + 1 : ℝ) ≤ 2 ^ o := by exact_mod_cast h
  have hpos : (0 : ℝ) < 2 ^ o := by positivity
  have hangle : 2 * Real.pi * j / 2 ^ o ≤ Real.pi / 2 := by
    rw [div_le_iff₀ hpos]
    nlinarith [Real.pi_pos]
  have hchord := Real.one_sub_mul_le_cos (x := 2 * Real.pi * j / 2 ^ o) (by positivity) hangle
  refine le_trans ?_ hchord
  have hpi := Real.pi_ne_zero
  have hline : 2 / Real.pi * (2 * Real.pi * j / 2 ^ o) = 4 * j / 2 ^ o := by
    field_simp
    ring
  rw [hline, le_sub_iff_add_le, ← add_div, div_le_one hpos]
  linarith

theorem exists_half {o : Nat} (ho : 1 ≤ o) : ∃ h, 2 ^ o = 2 * h := dvd_pow_self 2 (Nat.ne_of_gt ho)

/-- The index of an angle brought into the first half turn. -/
def halfTurn (t j : Nat) : Nat := if 2 * (j % t) > t then t - j % t else j % t

theorem cosReduce_eq (o j : Nat) : cosReduce o j =
    if 4 * halfTurn (2 ^ o) j = 2 ^ o then (0, 0)
    else if 4 * halfTurn (2 ^ o) j > 2 ^ o then (-1, 2 ^ o / 2 - halfTurn (2 ^ o) j)
    else (1, halfTurn (2 ^ o) j) := rfl

theorem halfTurn_spec (o j : Nat) :
    2 * halfTurn (2 ^ o) j ≤ 2 ^ o ∧ tableCos o (halfTurn (2 ^ o) j) = tableCos o j := by
  have hlt := Nat.mod_lt j (Nat.two_pow_pos o)
  rw [← tableCos_mod o j]
  unfold halfTurn
  split
  · exact ⟨by omega, tableCos_turn_sub hlt.le⟩
  · exact ⟨by omega, rfl⟩

/-- Every angle of the table is one of the first quadrant up to the sign of its cosine. -/
theorem cosReduce_spec {o : Nat} (ho : 1 ≤ o) (j : Nat) :
    ((cosReduce o j).1 : ℝ) * tableCos o (cosReduce o j).2 = tableCos o j
    ∧ (cosReduce o j).2 < max 1 (2 ^ o / 4) ∧ (cosReduce o j).1.natAbs ≤ 1 := by
  obtain ⟨hle, hcos⟩ := halfTurn_spec o j
  obtain ⟨h, hh⟩ := exists_half ho
  have hquarter : 2 ^ o = 2 ∨ 2 ^ o % 4 = 0 := by
    rcases Nat.lt_or_eq_of_le ho with h2 | rfl
    · exact .inr (Nat.mod_eq_zero_of_dvd (pow_dvd_pow 2 h2))
    · exact .inl rfl
  rw [cosReduce_eq, ← hcos]
  split
  next h4 => exact ⟨by rw [tableCos_quarter h4]; simp, by omega, by decide⟩
  split
  next h4 =>
    rw [show 2 ^ o / 2 = h by omega, tableCos_half_sub hh (by omega)]
    exact ⟨by simp, by omega, le_rfl⟩
  next => exact ⟨by simp, by omega, le_rfl⟩

/-! ### The fixed-point cosines -/

/-- A square root in integers is as near to y as its radicand is to y², relative to y. -/
theorem isqrt_near (n : Nat) {y : ℝ} (hy : 0 < y) : |(isqrt n : ℝ) - y| ≤ |(n : ℝ) - y ^ 2| / y + 1 := by
  obtain ⟨hle, hlt⟩ := isqrt_spec n
  have hfloor : |(isqrt n : ℝ) - Real.sqrt n| ≤ 1 := by
    have hlo : (isqrt n : ℝ) ≤ Real.sqrt n := Real.le_sqrt_of_sq_le (by exact_mod_cast (sq (isqrt n)).trans_le hle)
    have hhi : Real.sqrt n ≤ isqrt n + 1 :=
      Real.sqrt_le_iff.2 ⟨by positivity, by exact_mod_cast hlt.le.trans_eq (sq _).symm⟩
    rw [abs_le]
    constructor <;> linarith
  have hroot : |Real.sqrt n - y| ≤ |(n : ℝ) - y ^ 2| / y := by
    have hfactor : (n : ℝ) - y ^ 2 = (Real.sqrt n - y) * (Real.sqrt n + y) := by
      have := Real.sq_sqrt (Nat.cast_nonneg (α := ℝ) n)
      linear_combination -this
    have hsum : 0 < Real.sqrt n + y := by positivity
    rw [le_div_iff₀ hy, hfactor, abs_mul, abs_of_pos hsum]
    exact mul_le_mul_of_nonneg_left (by linarith [Real.sqrt_nonneg (n : ℝ)]) (abs_nonneg _)
  linarith [abs_sub_le (isqrt n : ℝ) (Real.sqrt n) y]

theorem isqrt_le_of_le {n m : Nat} (h : n ≤ m * m) : isqrt n ≤ m :=
  Nat.mul_self_le_mul_self_iff.1 ((isqrt_spec n).1.trans h)

theorem cosFixed_le (prec o j : Nat) : cosFixed prec o j ≤ 2 ^ prec := by
  induction o generalizing j with
  | zero => exact le_rfl
  | succ o ih =>
    have half : ∀ x ≤ 2 * 2 ^ prec, x * 2 ^ prec / 2 ≤ 2 ^ prec * 2 ^ prec := by
      intro x hx
      refine Nat.div_le_of_le_mul ?_
      rw [← Nat.mul_assoc]
      exact Nat.mul_le_mul_right _ hx
    have hle := ih j
    unfold cosFixed
    dsimp only
    split
    · exact ih _
    split
    · refine isqrt_le_of_le ?_
      rw [← pow_add]
      exact Nat.pow_le_pow_right (by decide) (by omega)
    split
    · exact isqrt_le_of_le (half _ (by omega))
    split
    · exact isqrt_le_of_le (half _ (by omega))
    · exact Nat.zero_le _

/-- The root that a half-angle step takes: an error of c in the cosine of the double angle, times 2^o. -/
theorem isqrt_halfAngle {q o j n : Nat} {c : ℝ} (hj : 4 * j < 2 ^ (o + 1))
    (hn : |(n : ℝ) - 2 ^ q * (2 ^ (q + 1) * (1 + tableCos o j))| ≤ 2 ^ q * c) :
    |(isqrt n : ℝ) - 2 ^ (q + 1) * tableCos (o + 1) j| ≤ 2 ^ o * c + 1 := by
  have hge := tableCos_ge hj
  have hlarge : 2 ^ q / 2 ^ o ≤ 2 ^ (q + 1) * tableCos (o + 1) j := by
    calc (2 : ℝ) ^ q / 2 ^ o = 2 ^ (q + 1) * (1 / 2 ^ (o + 1)) := by
          rw [pow_succ, pow_succ]
          field_simp
      _ ≤ 2 ^ (q + 1) * tableCos (o + 1) j := by gcongr
  have hpos : (0 : ℝ) < 2 ^ q / 2 ^ o := by positivity
  have hsq : (2 ^ (q + 1) * tableCos (o + 1) j) ^ 2 = 2 ^ q * (2 ^ (q + 1) * (1 + tableCos o j)) := by
    rw [mul_pow, tableCos_sq]
    ring
  refine (isqrt_near n (hpos.trans_le hlarge)).trans ?_
  rw [hsq]
  gcongr
  calc |(n : ℝ) - 2 ^ q * (2 ^ (q + 1) * (1 + tableCos o j))| / (2 ^ (q + 1) * tableCos (o + 1) j)
      ≤ 2 ^ q * c / (2 ^ q / 2 ^ o) := div_le_div₀ ((abs_nonneg _).trans hn) hn hpos hlarge
    _ = 2 ^ o * c := by field_simp

/-- The radicand of a half-angle step, from the cosine of the double angle up to a sign. -/
theorem radicand_near {q n c : Nat} {x e : ℝ} (hn : n = c * 2 ^ (q + 1) / 2)
    (hc : |(c : ℝ) - 2 ^ (q + 1) * (1 + x)| ≤ e) : |(n : ℝ) - 2 ^ q * (2 ^ (q + 1) * (1 + x))| ≤ 2 ^ q * e := by
  have hhalf : n = 2 ^ q * c := by
    rw [hn, pow_succ, ← Nat.mul_assoc, Nat.mul_div_cancel _ Nat.two_pos, Nat.mul_comm]
  rw [hhalf, Nat.cast_mul, Nat.cast_pow, Nat.cast_ofNat, ← mul_sub, abs_mul, abs_of_pos (by positivity)]
  gcongr

/-- The error 2^(o²) leaves room for one half-angle step more. -/
theorem errorBound_succ (o : Nat) : (2 : ℝ) ^ o * 2 ^ (o * o) + 1 ≤ 2 ^ ((o + 1) * (o + 1)) := by
  have hone : (1 : ℝ) ≤ 2 ^ o * 2 ^ (o * o) := by
    rw [← pow_add]
    exact one_le_pow₀ one_le_two
  calc (2 : ℝ) ^ o * 2 ^ (o * o) + 1 ≤ 2 ^ o * 2 ^ (o * o) + 2 ^ o * 2 ^ (o * o) := by gcongr
    _ = 2 ^ (o + o * o + 1) := by rw [pow_succ, pow_add]; ring
    _ ≤ 2 ^ ((o + 1) * (o + 1)) := pow_le_pow_right₀ one_le_two (by linarith)

/-- The error of the fixed-point cosines of a table of 2^o samples is at most 2^(o²) units of 2^−prec. -/
theorem cosFixed_error {prec o j : Nat} (hprec : 1 ≤ prec) (hj : 4 * j < 2 ^ o) :
    |(cosFixed prec o j : ℝ) - 2 ^ prec * tableCos o j| ≤ 2 ^ (o * o) := by
  obtain ⟨q, rfl⟩ : ∃ q, prec = q + 1 := ⟨prec - 1, by omega⟩
  induction o generalizing j with
  | zero =>
    obtain rfl : j = 0 := by omega
    simp [cosFixed]
  | succ o ih =>
    have hpow : 2 ^ (o + 1) = 2 * 2 ^ o := pow_succ' 2 o
    unfold cosFixed
    dsimp only
    split
    next heven =>
      obtain ⟨i, rfl⟩ : ∃ i, j = 2 * i := ⟨j / 2, by omega⟩
      rw [Nat.mul_div_cancel_left _ Nat.two_pos, tableCos_double]
      exact (ih (by omega)).trans (pow_le_pow_right₀ one_le_two (Nat.mul_self_le_mul_self (Nat.le_succ o)))
    next hodd =>
      split
      next hquarter =>
        refine (isqrt_halfAngle (c := 2 ^ (o * o)) hj ?_).trans (errorBound_succ o)
        rw [tableCos_quarter hquarter, show 2 * (q + 1) - 1 = q + (q + 1) by omega, pow_add]
        simp
      next hne =>
        split
        next hacute =>
          refine (isqrt_halfAngle hj (radicand_near rfl ?_)).trans (errorBound_succ o)
          have hcos := ih hacute
          push_cast
          rwa [mul_add, mul_one, add_sub_add_left_eq_sub]
        next hobtuse =>
          rw [if_pos (by omega)]
          refine (isqrt_halfAngle hj (radicand_near rfl ?_)).trans (errorBound_succ o)
          obtain ⟨h, hh⟩ := exists_half (o := o) (Nat.pos_of_ne_zero (by rintro rfl; omega))
          have hcos := ih (j := h - j) (by omega)
          rw [tableCos_half_sub hh (by omega), mul_neg, sub_neg_eq_add, ← abs_neg, neg_add'] at hcos
          rw [show 2 ^ o / 2 = h by omega, Nat.cast_sub (cosFixed_le _ _ _)]
          push_cast
          convert hcos using 2
          ring

end Sys2Proof.Machine
end

section
/-! SUPPORT. The inverse transform of a frame's bins as a sum of cosines (`41_bank.md` R153), and the same sum in the
coefficients that the default transform collects. -/

namespace Sys2Proof.Machine

/-! ### Lists as sums -/

theorem sum_map_range {M : Type} [AddCommMonoid M] (f : Nat → M) (n : Nat) :
    ((List.range n).map f).sum = ∑ i ∈ Finset.range n, f i := rfl

theorem sum_map_zipIdx {α M : Type} [AddCommMonoid M] (xs : List α) (d : α) (f : α × Nat → M) :
    (xs.zipIdx.map f).sum = ∑ q ∈ Finset.range xs.length, f (xs.getD q d, q) := by
  have hzip : xs.zipIdx = (List.range xs.length).map fun q => (xs.getD q d, q) :=
    List.ext_getElem (by simp) fun q hq _ => by
      rw [List.length_zipIdx] at hq
      simp [hq]
  rw [hzip, List.map_map, sum_map_range]
  rfl

/-! ### The transform of a frame -/

/-- The weight of a bin in the inverse transform (`41_bank.md` R153). -/
def binWeight (t b : Nat) : Int := if b = 0 ∨ 2 * b = t then 1 else 2

/-- `T · 2^149 · y_m[i]` of a frame: the bins up to `PARTIALS(m)` as cosines of the table. -/
noncomputable def bandSum (octaves : Nat) (frame : List F32) (m i : Nat) : ℝ :=
  ∑ q ∈ Finset.range frame.length, ∑ b ∈ Finset.range (partials m + 1),
    binWeight (2 ^ octaves) b * fval (frame.getD q 0) * tableCos octaves (b * (i + (2 ^ octaves - q)))

/-- One bin, turned to sample i, as a sum of cosines. -/
theorem re_dftBin_mul_exp (t : Nat) (x : Nat → ℝ) (b i : Nat) :
    (dftBin t x b * Complex.exp (2 * Real.pi * Complex.I * i * b / t)).re
      = ∑ q ∈ Finset.range t, x q * Real.cos (2 * Real.pi * b * (i - q) / t) := by
  rw [dftBin, Finset.sum_mul, Complex.re_sum]
  refine Finset.sum_congr rfl fun q _ => ?_
  have hangle : -(2 * Real.pi * Complex.I * q * b / t) + 2 * Real.pi * Complex.I * i * b / t
      = ((2 * Real.pi * b * (i - q) / t : ℝ) : ℂ) * Complex.I := by
    push_cast
    ring
  rw [mul_assoc, ← Complex.exp_add, hangle, Complex.re_ofReal_mul, Complex.exp_ofReal_mul_I_re]

theorem re_dftBin_zero (t : Nat) (x : Nat → ℝ) : (dftBin t x 0).re = ∑ q ∈ Finset.range t, x q := by
  simp [dftBin]

/-- The index at which the model takes the cosine of bin b between the samples q and i. -/
theorem cos_eq_tableCos {o q : Nat} (hq : q < 2 ^ o) (b i : Nat) :
    Real.cos (2 * Real.pi * b * (i - q) / (2 ^ o : Nat)) = tableCos o (b * (i + (2 ^ o - q))) := by
  have hangle : 2 * Real.pi * (b * (i + (2 ^ o - q)) : Nat) / 2 ^ o
      = 2 * Real.pi * b * (i - q) / (2 ^ o : Nat) + b * (2 * Real.pi) := by
    push_cast [Nat.cast_sub hq.le]
    field_simp
    ring
  rw [tableCos, hangle, Real.cos_add_nat_mul_two_pi]

/-- Below the full level the bins kept are below half the table. -/
theorem partials_lt_half {o m : Nat} (hm : m < o) : partials m < 2 ^ o / 2 := by
  have hpow : 2 ^ m < 2 ^ o := Nat.pow_lt_pow_right (by decide) hm
  obtain ⟨h, hh⟩ := exists_half (Nat.zero_lt_of_lt hm)
  unfold partials
  omega

/-- The exact sum, bin 0 apart from the bins with a conjugate. -/
theorem bandSum_eq_bins {o m : Nat} (hm : m < o) (frame : List F32) (i : Nat) :
    bandSum o frame m i = ∑ q ∈ Finset.range frame.length, (fval (frame.getD q 0) : ℝ)
      + 2 * ∑ b ∈ Finset.Ico 1 (partials m + 1), ∑ q ∈ Finset.range frame.length,
          (fval (frame.getD q 0) : ℝ) * tableCos o (b * (i + (2 ^ o - q))) := by
  have hhalf := partials_lt_half hm
  rw [bandSum, Finset.sum_comm, Finset.range_eq_Ico (a := partials m + 1),
    Finset.sum_eq_sum_Ico_succ_bot (Nat.succ_pos _), Finset.mul_sum]
  congr 1
  · simp [binWeight]
  · refine Finset.sum_congr rfl fun b hb => ?_
    obtain ⟨hlo, hhi⟩ := Finset.mem_Ico.1 hb
    have hweight : binWeight (2 ^ o) b = 2 := if_neg (by omega)
    rw [Finset.mul_sum, hweight]
    refine Finset.sum_congr rfl fun q _ => ?_
    push_cast
    ring

/-- The inverse transform of the bins below half the table is their sum of cosines. -/
theorem bandSample_eq {k : Config} {frame : List F32} {m : Nat} (hlen : frame.length = k.tableSize)
    (hm : m < k.numOctaves) (i : Nat) :
    bandSample k frame m i = bandSum k.numOctaves frame m i / (k.tableSize * 2 ^ 149) := by
  have hhalf : partials m < k.tableSize / 2 := partials_lt_half hm
  have hbins : ∑ b ∈ Finset.Ico 1 (k.tableSize / 2),
      ((if b ≤ partials m then dftBin k.tableSize (fun q => realOf (frame.getD q 0)) b else 0)
        * Complex.exp (2 * Real.pi * Complex.I * i * b / k.tableSize)).re
      = ∑ b ∈ Finset.Ico 1 (partials m + 1), ∑ q ∈ Finset.range k.tableSize,
          realOf (frame.getD q 0) * tableCos k.numOctaves (b * (i + (2 ^ k.numOctaves - q))) := by
    rw [← Finset.sum_subset (Finset.Ico_subset_Ico_right (Nat.succ_le_of_lt hhalf))]
    · refine Finset.sum_congr rfl fun b hb => ?_
      rw [if_pos (Nat.le_of_lt_succ (Finset.mem_Ico.1 hb).2), re_dftBin_mul_exp]
      exact Finset.sum_congr rfl fun q hq => by rw [← cos_eq_tableCos (Finset.mem_range.1 hq)]; rfl
    · intro b hb hnot
      rw [Finset.mem_Ico] at hb hnot
      rw [if_neg (by omega), zero_mul, Complex.zero_re]
  unfold bandSample
  dsimp only
  rw [hbins, if_pos (Nat.zero_le _), re_dftBin_zero, if_neg (by omega), Complex.zero_re, zero_mul, add_zero,
    bandSum_eq_bins hm, hlen]
  simp only [realOf, div_mul_eq_mul_div, ← Finset.sum_div]
  field_simp

/-! ### The coefficients of the default transform -/

theorem mipCoeff_eq (o : Nat) (frame : List F32) (m i c : Nat) :
    mipCoeff o frame m i c = ∑ q ∈ Finset.range frame.length, ∑ b ∈ Finset.range (partials m + 1),
      if (cosReduce o (b * (i + (2 ^ o - q)))).2 = c then
        (cosReduce o (b * (i + (2 ^ o - q)))).1 * binWeight (2 ^ o) b * fval (frame.getD q 0) else 0 := by
  unfold mipCoeff
  simp only [sum_map_range, sum_map_zipIdx frame 0]
  rfl

/-- The coefficients are those of the exact sum. -/
theorem sum_mipCoeff_mul_tableCos {o : Nat} (ho : 1 ≤ o) (frame : List F32) (m i : Nat) :
    ∑ c ∈ Finset.range (max 1 (2 ^ o / 4)), (mipCoeff o frame m i c : ℝ) * tableCos o c = bandSum o frame m i := by
  simp only [mipCoeff_eq, Int.cast_sum, Finset.sum_mul]
  rw [Finset.sum_comm]
  refine Finset.sum_congr rfl fun q _ => ?_
  rw [Finset.sum_comm]
  refine Finset.sum_congr rfl fun b _ => ?_
  obtain ⟨hcos, hlt, -⟩ := cosReduce_spec ho (b * (i + (2 ^ o - q)))
  rw [← hcos]
  simp only [Int.cast_ite, ite_mul, Int.cast_zero, zero_mul, Finset.sum_ite_eq, Finset.mem_range, hlt, if_true]
  push_cast
  ring

theorem abs_fval_le {x : F32} (hx : isFinite x = true) : |(fval x : ℝ)| ≤ 2 ^ 24 * 2 ^ 253 := by
  have hmag : fmag x ≤ 2 ^ 24 * 2 ^ 253 := by
    rw [fmag_eq_lowMag]
    exact (lowMag_le_of_finite ((isFinite_iff x).1 hx)).trans (Nat.mul_le_mul_right _ (by decide))
  rw [← Int.cast_abs, Int.abs_eq_natAbs, natAbs_fval, Int.cast_natCast]
  exact_mod_cast hmag

theorem natAbs_binWeight_le (t b : Nat) : (binWeight t b).natAbs ≤ 2 := by
  unfold binWeight
  split <;> decide

theorem abs_mipCoeff_le {o : Nat} (ho : 1 ≤ o) {frame : List F32} (hfin : frame.all isFinite = true) (m i c : Nat) :
    |(mipCoeff o frame m i c : ℝ)| ≤ frame.length * ((partials m + 1 : Nat) * (2 ^ 25 * 2 ^ 253)) := by
  have term : ∀ q ∈ Finset.range frame.length, ∀ b : Nat,
      |((if (cosReduce o (b * (i + (2 ^ o - q)))).2 = c then
        (cosReduce o (b * (i + (2 ^ o - q)))).1 * binWeight (2 ^ o) b * fval (frame.getD q 0) else 0 : Int) : ℝ)|
      ≤ 2 ^ 25 * 2 ^ 253 := by
    intro q hq b
    obtain ⟨-, -, hunit⟩ := cosReduce_spec ho (b * (i + (2 ^ o - q)))
    have hsample : isFinite (frame.getD q 0) = true := by
      have hlt := Finset.mem_range.1 hq
      simpa [hlt] using List.all_eq_true.1 hfin frame[q] (List.getElem_mem hlt)
    have hsign : |((cosReduce o (b * (i + (2 ^ o - q)))).1 : ℝ)| ≤ 1 := by
      rw [← Int.cast_abs, Int.abs_eq_natAbs]
      exact_mod_cast hunit
    have hweight : |(binWeight (2 ^ o) b : ℝ)| ≤ 2 := by
      rw [← Int.cast_abs, Int.abs_eq_natAbs]
      exact_mod_cast natAbs_binWeight_le (2 ^ o) b
    split
    · push_cast
      rw [abs_mul, abs_mul]
      calc _ ≤ (1 : ℝ) * 2 * (2 ^ 24 * 2 ^ 253) := by gcongr; exact abs_fval_le hsample
        _ = 2 ^ 25 * 2 ^ 253 := by ring
    · simp
  rw [mipCoeff_eq, Int.cast_sum]
  refine (Finset.abs_sum_le_sum_abs _ _).trans ?_
  refine (Finset.sum_le_card_nsmul _ _ _ fun q hq => ?_).trans_eq (by rw [Finset.card_range, nsmul_eq_mul])
  rw [Int.cast_sum]
  refine (Finset.abs_sum_le_sum_abs _ _).trans ?_
  exact (Finset.sum_le_card_nsmul _ _ _ fun b _ => term q hq b).trans_eq (by rw [Finset.card_range, nsmul_eq_mul])

end Sys2Proof.Machine
end

section
/-! SUPPORT. The default transform rounds a number within 2^−250 of the exact sample (`41_bank.md` R153, assumption 10),
what nearness to that number says of the exact one, and the statement on the levels below the full one. -/

namespace Sys2Proof.Machine

/-! ### Nearness to a number close by -/

/-- The quotient that was rounded, as a real number. -/
noncomputable def quotient (num : Int) (den : Nat) : ℝ := num / (den * 2 ^ 149)

theorem abs_quotient (num : Int) {den : Nat} : |quotient num den| = num.natAbs / (den * 2 ^ 149) := by
  rw [quotient, abs_div, abs_of_nonneg (by positivity : (0 : ℝ) ≤ den * 2 ^ 149), ← Int.cast_abs, Int.abs_eq_natAbs,
    Int.cast_natCast]

/-- The overflow boundary in units and as a real number. -/
theorem natAbs_lt_boundary_iff (num : Int) {den : Nat} (hden : 0 < den) :
    num.natAbs < (2 ^ 25 - 1) * 2 ^ 252 * den ↔ |quotient num den| < (2 ^ 25 - 1) * 2 ^ 103 := by
  have hpos : (0 : ℝ) < den * 2 ^ 149 := by positivity
  have hunits : ((2 : ℝ) ^ 25 - 1) * 2 ^ 103 * (den * 2 ^ 149) = (((2 ^ 25 - 1) * 2 ^ 252 * den : Nat) : ℝ) := by
    push_cast
    ring
  rw [abs_quotient, div_lt_iff₀ hpos, hunits, Nat.cast_lt]

/-- How far a float is from the quotient, in units and as a real number. -/
theorem abs_realOf_sub_quotient (x : F32) (num : Int) {den : Nat} (hden : 0 < den) :
    |realOf x - quotient num den| = (fval x * den - num).natAbs / (den * 2 ^ 149) := by
  rw [← abs_quotient, quotient, quotient, realOf]
  congr 1
  push_cast
  field_simp

theorem quotient_neg_iff {num : Int} {den : Nat} (hden : 0 < den) : quotient num den < 0 ↔ num < 0 := by
  rw [quotient, div_lt_iff₀ (by positivity), zero_mul, Int.cast_lt_zero]

/-- `NearestEven` in real numbers. -/
theorem NearestEven.real_cases {num : Int} {den : Nat} {r : F32} (hden : 0 < den) (h : NearestEven num den r) :
    (|quotient num den| < (2 ^ 25 - 1) * 2 ^ 103 ∧ isFinite r = true
      ∧ ∀ z : F32, isFinite z = true → |realOf r - quotient num den| ≤ |realOf z - quotient num den|)
    ∨ ((2 ^ 25 - 1) * 2 ^ 103 ≤ |quotient num den| ∧ isInf r = true
      ∧ (fsign r = true ↔ quotient num den < 0)) := by
  unfold NearestEven at h
  split at h
  next hsmall =>
    obtain ⟨hfin, hnear⟩ := h
    refine .inl ⟨(natAbs_lt_boundary_iff num hden).1 hsmall, hfin, fun z hz => ?_⟩
    rw [abs_realOf_sub_quotient r num hden, abs_realOf_sub_quotient z num hden]
    gcongr
    exact (hnear z hz).1
  next hlarge =>
    obtain ⟨hinf, hsign⟩ := h
    refine .inr ⟨not_lt.1 ((natAbs_lt_boundary_iff num hden).not.1 hlarge), hinf, ?_⟩
    rw [hsign, decide_eq_true_eq, quotient_neg_iff hden]

/-- A float nearest to a number is nearest, up to the slack, to every number within half the slack of it. -/
theorem nearestUpToSlack_of_nearestEven {num : Int} {den : Nat} {r : F32} (hden : 0 < den)
    (h : NearestEven num den r) {x : ℝ} (hx : |quotient num den - x| ≤ 1 / 2 ^ 250) : NearestUpToSlack x r := by
  have hcases := h.real_cases hden
  have hslack : (1 : ℝ) / 2 ^ 249 = 2 * (1 / 2 ^ 250) := by norm_num
  have hsmall : (0 : ℝ) < 1 / 2 ^ 250 ∧ (1 : ℝ) / 2 ^ 250 < 1 := by norm_num
  have hlimit : (1 : ℝ) < (2 ^ 25 - 1) * 2 ^ 103 := by norm_num
  unfold NearestUpToSlack
  dsimp only
  rw [hslack]
  generalize (1 : ℝ) / 2 ^ 250 = e at *
  generalize ((2 : ℝ) ^ 25 - 1) * 2 ^ 103 = limit at *
  generalize quotient num den = y at *
  obtain ⟨hpos, hone⟩ := hsmall
  have habove : |y| ≤ |x| + e := by linarith [abs_sub_abs_le_abs_sub y x]
  have hbelow : |x| ≤ |y| + e := by linarith [abs_sub_abs_le_abs_sub x y, abs_sub_comm x y]
  rcases hcases with ⟨hlt, hfin, hnear⟩ | ⟨hge, hinf, hsign⟩
  · refine ⟨fun _ z hz => ?_, fun hr => by simp [hfin] at hr, fun _ => hfin, fun hlarge => by linarith⟩
    calc |realOf r - x| ≤ |realOf r - y| + |y - x| := abs_sub_le _ _ _
      _ ≤ |realOf z - y| + e := add_le_add (hnear z hz) hx
      _ ≤ |realOf z - x| + |x - y| + e := by gcongr; exact abs_sub_le _ _ _
      _ ≤ |realOf z - x| + 2 * e := by rw [abs_sub_comm x y]; linarith
  · have hnot := (classes_of_isInf hinf).1
    refine ⟨fun hr => by simp [hnot] at hr, fun _ => ⟨hinf, by linarith, hsign.trans ?_⟩, fun hsmaller => by linarith,
      fun _ => hinf⟩
    obtain ⟨hlo, hhi⟩ := abs_le.1 hx
    rcases abs_cases y with ⟨habs, hy⟩ | ⟨habs, hy⟩
    · exact iff_of_false (not_lt.2 hy) (by linarith)
    · exact iff_of_true hy (by linarith)

/-! ### The two branches of the default transform -/

/-- The number of cosines of a table. -/
def cosCount (o : Nat) : Nat := max 1 (2 ^ o / 4)

/-- The coefficients of the cosines other than cos 0. -/
def laterCoeffs (o : Nat) (frame : List F32) (m i : Nat) : List Int :=
  (List.range (cosCount o - 1)).map fun c => mipCoeff o frame m i (c + 1)

/-- The sum with the fixed-point cosines, in units of 2^−prec. -/
def fixedSum (o : Nat) (frame : List F32) (m i : Nat) : Int :=
  ∑ c ∈ Finset.range (cosCount o), mipCoeff o frame m i c * cosFixed (mipPrecision o) o c

/-- The default transform: a rational sum by its one coefficient, any other by the fixed-point cosines. -/
theorem mipExact_eq (o : Nat) (frame : List F32) (m i : Nat) : mipExact o frame m i =
    if (laterCoeffs o frame m i).all (· == 0) then
      mkF (decide (mipCoeff o frame m i 0 < 0)) (roundMag (mipCoeff o frame m i 0).natAbs (2 ^ o))
    else mkF (decide (fixedSum o frame m i < 0))
      (roundMag (fixedSum o frame m i).natAbs (2 ^ o * 2 ^ mipPrecision o)) := by
  have hcount : max 1 (2 ^ o / 4) = cosCount o - 1 + 1 := by unfold cosCount; omega
  have hcoeffs : (List.range (max 1 (2 ^ o / 4))).map (mipCoeff o frame m i)
      = mipCoeff o frame m i 0 :: laterCoeffs o frame m i := by
    rw [hcount, List.range_succ_eq_map, List.map_cons, List.map_map]
    rfl
  have hsum : (((List.range (max 1 (2 ^ o / 4))).map (mipCoeff o frame m i)).zipIdx.map
      fun q => q.1 * (cosFixed (mipPrecision o) o q.2 : Int)).sum = fixedSum o frame m i := by
    rw [sum_map_zipIdx _ 0, List.length_map, List.length_range]
    refine Finset.sum_congr rfl fun c hc => ?_
    have hlt : c < max 1 (2 ^ o / 4) := Finset.mem_range.1 hc
    rw [List.getD_eq_getElem _ _ (by simpa using hlt), List.getElem_map, List.getElem_range]
  unfold mipExact
  dsimp only
  rw [hsum, hcoeffs]
  dsimp only
  split
  next hrational =>
    split
    next hzero => rw [hzero, Int.natAbs_zero, roundMag_zero]; rfl
    next => rfl
  next => rfl

theorem laterCoeffs_all_zero_iff {o : Nat} {frame : List F32} {m i : Nat} :
    (laterCoeffs o frame m i).all (· == 0) = true ↔ ∀ c, 0 < c → c < cosCount o → mipCoeff o frame m i c = 0 := by
  simp only [laterCoeffs, List.all_map, List.all_eq_true, List.mem_range, Function.comp_apply, beq_iff_eq]
  constructor
  · intro h c hpos hc
    obtain ⟨d, rfl⟩ : ∃ d, c = d + 1 := ⟨c - 1, by omega⟩
    exact h d (by omega)
  · intro h c hc
    exact h (c + 1) (Nat.succ_pos c) (by omega)

/-! ### How far each branch is from the exact sample -/

/-- With one coefficient the exact sum is that coefficient. -/
theorem bandSum_of_rational {o : Nat} (ho : 1 ≤ o) {frame : List F32} {m i : Nat}
    (h : (laterCoeffs o frame m i).all (· == 0) = true) : bandSum o frame m i = mipCoeff o frame m i 0 := by
  rw [laterCoeffs_all_zero_iff] at h
  rw [← sum_mipCoeff_mul_tableCos ho, Finset.sum_eq_single 0]
  · simp
  · intro c hc hne
    rw [h c (Nat.pos_of_ne_zero hne) (Finset.mem_range.1 hc)]
    simp
  · simp

/-- The precision leaves room for the error of the cosines, the number of terms and the size of the samples. -/
theorem mipPrecision_ge {o : Nat} (ho : o ≤ 31) : o * o + 2 * o + 379 ≤ mipPrecision o := by
  have hsq : o * o ≤ 31 * o := Nat.mul_le_mul_right o ho
  unfold mipPrecision
  generalize 2 ^ o / 4 = quarter
  omega

theorem cosCount_le (o : Nat) : cosCount o ≤ 2 ^ o := by
  have := Nat.two_pow_pos o
  unfold cosCount
  omega

theorem lt_quarter_of_lt_cosCount {o c : Nat} (ho : 1 ≤ o) (hc : c < cosCount o) : 4 * c < 2 ^ o := by
  obtain ⟨h, hh⟩ := exists_half ho
  have := Nat.two_pow_pos o
  unfold cosCount at hc
  omega

/-- The sum with the fixed-point cosines against the exact one. -/
theorem fixedSum_error {o : Nat} (ho : 1 ≤ o) (ho' : o ≤ 31) {frame : List F32} {m : Nat} (hm : m < o)
    (hlen : frame.length = 2 ^ o) (hfin : frame.all isFinite = true) (i : Nat) :
    |(fixedSum o frame m i : ℝ) - 2 ^ mipPrecision o * bandSum o frame m i|
      ≤ 2 ^ o * (2 ^ o * (2 ^ o * (2 ^ 25 * 2 ^ 253)) * 2 ^ (o * o)) := by
  have hprec : 1 ≤ mipPrecision o := by
    have := mipPrecision_ge ho'
    omega
  have hbins : partials m + 1 ≤ 2 ^ o := by have := partials_lt_half hm; omega
  have hdiff : (fixedSum o frame m i : ℝ) - 2 ^ mipPrecision o * bandSum o frame m i
      = ∑ c ∈ Finset.range (cosCount o), (mipCoeff o frame m i c : ℝ)
          * ((cosFixed (mipPrecision o) o c : ℝ) - 2 ^ mipPrecision o * tableCos o c) := by
    rw [← sum_mipCoeff_mul_tableCos ho, Finset.mul_sum, fixedSum, Int.cast_sum, cosCount, ← Finset.sum_sub_distrib]
    refine Finset.sum_congr rfl fun c _ => ?_
    push_cast
    ring
  have hterm : ∀ c ∈ Finset.range (cosCount o), |(mipCoeff o frame m i c : ℝ)
      * ((cosFixed (mipPrecision o) o c : ℝ) - 2 ^ mipPrecision o * tableCos o c)|
      ≤ 2 ^ o * (2 ^ o * (2 ^ 25 * 2 ^ 253)) * 2 ^ (o * o) := by
    intro c hc
    have hcoeff := abs_mipCoeff_le ho hfin m i c
    rw [hlen] at hcoeff
    rw [abs_mul]
    refine mul_le_mul (hcoeff.trans ?_) (cosFixed_error hprec (lt_quarter_of_lt_cosCount ho (Finset.mem_range.1 hc)))
      (abs_nonneg _) (by positivity)
    push_cast
    gcongr
    exact_mod_cast hbins
  rw [hdiff]
  refine (Finset.abs_sum_le_sum_abs _ _).trans ((Finset.sum_le_card_nsmul _ _ _ hterm).trans ?_)
  rw [Finset.card_range, nsmul_eq_mul]
  gcongr
  exact_mod_cast cosCount_le o

/-- The quotient that the fixed-point branch rounds is close to the exact sample. -/
theorem quotient_fixedSum_near {o : Nat} (ho : 1 ≤ o) (ho' : o ≤ 31) {frame : List F32} {m : Nat} (hm : m < o)
    (hlen : frame.length = 2 ^ o) (hfin : frame.all isFinite = true) (i : Nat) :
    |quotient (fixedSum o frame m i) (2 ^ o * 2 ^ mipPrecision o) - bandSum o frame m i / (2 ^ o * 2 ^ 149)|
      ≤ 1 / 2 ^ 250 := by
  have herror := fixedSum_error ho ho' hm hlen hfin i
  have hprec := mipPrecision_ge ho'
  generalize mipPrecision o = p at *
  have hdiff : quotient (fixedSum o frame m i) (2 ^ o * 2 ^ p) - bandSum o frame m i / (2 ^ o * 2 ^ 149)
      = ((fixedSum o frame m i : ℝ) - 2 ^ p * bandSum o frame m i) / (2 ^ o * 2 ^ p * 2 ^ 149) := by
    rw [quotient]
    push_cast
    field_simp
  rw [hdiff, abs_div, abs_of_pos (by positivity : (0 : ℝ) < 2 ^ o * 2 ^ p * 2 ^ 149),
    div_le_div_iff₀ (by positivity) (by positivity), one_mul]
  calc _ ≤ (2 : ℝ) ^ o * (2 ^ o * (2 ^ o * (2 ^ 25 * 2 ^ 253)) * 2 ^ (o * o)) * 2 ^ 250 := by gcongr
    _ = 2 ^ (o * o + 2 * o) * 2 ^ 200 * 2 ^ 179 * (2 ^ o * 2 ^ 149) := by ring
    _ ≤ 2 ^ p * (2 ^ o * 2 ^ 149) := by
        rw [← pow_add, ← pow_add]
        gcongr
        norm_num
    _ = 2 ^ o * 2 ^ p * 2 ^ 149 := by ring

/-! ### The statement -/

/-- The default transform rounds once, to nearest, a number close to the exact sample. -/
theorem mipExact_nearestUpToSlack {k : Config} {frame : List F32} {m : Nat} (hk : k.legal = true)
    (hlen : frame.length = k.tableSize) (hfin : frame.all isFinite = true) (hm : m < k.numOctaves) (i : Nat) :
    NearestUpToSlack (bandSample k frame m i) (mipExact k.numOctaves frame m i) := by
  have ho : 1 ≤ k.numOctaves := Nat.zero_lt_of_lt hm
  have hsize : ((k.tableSize : Nat) : ℝ) = 2 ^ k.numOctaves := by simp [Config.tableSize]
  rw [bandSample_eq hlen hm, mipExact_eq, hsize]
  split
  next hrational =>
    refine nearestUpToSlack_of_nearestEven (Nat.two_pow_pos _)
      (nearestEven_mkF (Nat.two_pow_pos _) rfl fun _ => rfl) ?_
    rw [bandSum_of_rational ho hrational, quotient]
    simp
  next =>
    have hden : 0 < 2 ^ k.numOctaves * 2 ^ mipPrecision k.numOctaves :=
      Nat.mul_pos (Nat.two_pow_pos _) (Nat.two_pow_pos _)
    exact nearestUpToSlack_of_nearestEven hden (nearestEven_mkF hden rfl fun _ => rfl)
      (quotient_fixedSum_near ho (numOctaves_le_of_legal hk) hm hlen hfin i)

theorem cosReduce_zero (o : Nat) : cosReduce o 0 = (1, 0) := by
  have := Nat.two_pow_pos o
  have hturn : halfTurn (2 ^ o) 0 = 0 := by simp [halfTurn]
  rw [cosReduce_eq, hturn, if_neg (by omega), if_neg (by omega)]

/-- Level 0 keeps bin 0 alone: one coefficient, the sum of the frame. -/
theorem mipCoeff_zero (o : Nat) (frame : List F32) (i c : Nat) :
    mipCoeff o frame 0 i c = if c = 0 then (frame.map fval).sum else 0 := by
  have hframe : (frame.map fval).sum = ∑ q ∈ Finset.range frame.length, fval (frame.getD q 0) := by
    have hfst : frame.zipIdx.map (fval ∘ Prod.fst) = frame.map fval := by rw [← List.map_map, List.zipIdx_map_fst]
    rw [← hfst, sum_map_zipIdx frame 0]
    rfl
  have hbins : partials 0 + 1 = 1 := rfl
  rw [mipCoeff_eq, hbins, hframe]
  simp only [Finset.sum_range_one, Nat.zero_mul, cosReduce_zero]
  rcases eq_or_ne c 0 with rfl | hc
  · simp [binWeight]
  · simp [hc, hc.symm]

/-- The mean of a frame, rounded to nearest. -/
theorem mipExact_zero_nearestEven (o : Nat) (frame : List F32) (i : Nat) :
    NearestEven (frame.map fval).sum (2 ^ o) (mipExact o frame 0 i) := by
  have hmean : mipCoeff o frame 0 i 0 = (frame.map fval).sum := (mipCoeff_zero o frame i 0).trans (if_pos rfl)
  have hrational : (laterCoeffs o frame 0 i).all (· == 0) = true :=
    laterCoeffs_all_zero_iff.2 fun c hpos _ => (mipCoeff_zero o frame i c).trans (if_neg hpos.ne')
  rw [mipExact_eq, if_pos hrational, hmean]
  exact nearestEven_mkF (Nat.two_pow_pos _) rfl fun _ => rfl

theorem buildMipmap_of_default {k : Config} {frame : List F32} {m : Nat} (hpolicy : k.buildMipmaps = .specDefault)
    (hfin : frame.all isFinite = true) (hm : m < k.numOctaves) (i : Nat) :
    buildMipmap k frame m i = mipExact k.numOctaves frame m i := by
  simp [buildMipmap, hpolicy, hfin, hm.ne]

/-- Settles O26: the default transform rounds a number within half the slack, and on level 0 the mean itself. -/
theorem levelsBelowFullKeepTheirBins : Obligations.LevelsBelowFullKeepTheirBins := by
  intro k frame m i hk hpolicy hlen hfin hm _
  rw [buildMipmap_of_default hpolicy hfin hm]
  refine ⟨mipExact_nearestUpToSlack hk hlen hfin hm i, ?_⟩
  rintro rfl
  exact mipExact_zero_nearestEven _ frame i

end Sys2Proof.Machine
end

section
/-! SUPPORT. `DELTA` and `START` (`42_oscillator.md` R182, R184): a product by 2^32 is exact until it overflows, and a
conversion to u32 reads no payload of a NaN, so that the place of a product does not matter. -/

namespace Sys2Proof.Machine

/-! ### Converted products -/

/-- The place of a product reaches it only as the payload of a NaN. -/
theorem fmul_sameF32 (site site' : Site) (x y : F32) : sameF32 (fmul site x y) (fmul site' x y) := by
  have drawn : sameF32 (quietNaN site) (quietNaN site') := .inr ⟨isNaN_quietNaN _, isNaN_quietNaN _⟩
  unfold fmul
  dsimp only
  split
  · exact drawn
  split
  · split
    · exact drawn
    · exact sameF32_refl _
  · exact sameF32_refl _

theorem f2u32_eq_of_sameF32 {x y : F32} (h : sameF32 x y) : f2u32 x = f2u32 y := by
  rcases h with rfl | ⟨hx, hy⟩
  · rfl
  · rw [f2u32_of_nan_or_neg (.inl hx), f2u32_of_nan_or_neg (.inl hy)]

theorem f2u32_of_isZero {x : F32} (h : isZero x = true) : f2u32 x = 0 := by
  cases hs : fsign x with
  | true => exact f2u32_of_nan_or_neg (.inr hs)
  | false =>
    have hmag : fmag x = 0 := by rw [fmag_eq_lowMag, (isZero_iff x).1 h, lowMag_zero]
    apply BitVec.eq_of_toNat_eq
    rw [toNat_f2u32_of_finite (isFinite_of_isZero h) hs, hmag]
    rfl

/-- A NaN or negative operand beside a positive one makes the product a NaN or negative. -/
theorem f2u32_fmul_of_nan_or_neg (site : Site) {x y : F32} (h : isNaN x = true ∨ fsign x = true)
    (hy : fsign y = false) : f2u32 (fmul site x y) = 0 := by
  rcases h with hx | hx
  · obtain ⟨-, -, -, hprod, -⟩ := nan_operand site (y := y) (.inl hx)
    exact f2u32_of_nan_or_neg (.inl hprod)
  · cases hprod : isNaN (fmul site x y) with
    | true => exact f2u32_of_nan_or_neg (.inl hprod)
    | false =>
      refine f2u32_of_nan_or_neg (.inr ?_)
      rw [sign_of_nan_or_mkF (fmul_nan_or_number site x y) hprod, hx, hy]
      rfl

theorem isZero_fmul_of_isZero (site : Site) {x y : F32} (hx : isZero x = true) (hy : isFinite y = true) :
    isZero (fmul site x y) = true := by
  have hmag : fmag x = 0 := by rw [fmag_eq_lowMag, (isZero_iff x).1 hx, lowMag_zero]
  rw [fmul_of_finite site (isFinite_of_isZero hx) hy, hmag, Nat.zero_mul, roundMag_zero, isZero_mkF]

/-! ### DELTA -/

theorem two32_classes :
    isFinite F32.two32 = true ∧ fsign F32.two32 = false ∧ fmag F32.two32 = 2 ^ 32 * 2 ^ 149 := by decide

/-- A significand below 2^24 at some exponent, normalised above the exponents of a float, is a float or overflows. -/
theorem roundMag_exact_or_overflow {m j q : Nat} (hq : 0 < q) (hm : m < 2 ^ 24) (hnorm : j ≤ 253 ∨ 2 ^ 23 ≤ m) :
    (roundMag (m * 2 ^ j * q) q < 255 * 2 ^ 23 ∧ lowMag (roundMag (m * 2 ^ j * q) q) = m * 2 ^ j)
    ∨ (roundMag (m * 2 ^ j * q) q = 255 * 2 ^ 23 ∧ 2 ^ 23 * 2 ^ 254 ≤ m * 2 ^ j) := by
  rcases Nat.lt_or_ge 253 j with hbig | hsmall
  · have hpow : 2 ^ 23 * 2 ^ 254 ≤ m * 2 ^ j :=
      Nat.mul_le_mul (by omega) (Nat.pow_le_pow_right (by decide) hbig)
    have hover : ¬roundMag (m * 2 ^ j * q) q < 255 * 2 ^ 23 := by
      rw [roundMag_finite_iff _ _ hq, Nat.not_lt]
      exact Nat.mul_le_mul_right _ ((by decide : (2 ^ 25 - 1) * 2 ^ 252 ≤ 2 ^ 23 * 2 ^ 254).trans hpow)
    exact .inr ⟨Nat.le_antisymm (roundMag_le _ _) (Nat.not_lt.1 hover), hpow⟩
  · exact .inl (lowMag_roundMag_of_exact hq hm hsmall rfl)

/-- The product of a magnitude by 2^32 is exact, or an infinity above every u32 (`42_oscillator.md` R182). -/
theorem fmul_two32_exact_or_inf (site : Site) {x : F32} (hx : isFinite x = true) (hs : fsign x = false) :
    fsign (fmul site x F32.two32) = false
    ∧ (isFinite (fmul site x F32.two32) = true ∧ fmag (fmul site x F32.two32) = fmag x * 2 ^ 32
      ∨ isInf (fmul site x F32.two32) = true ∧ 2 ^ 32 * 2 ^ 149 ≤ fmag x * 2 ^ 32) := by
  obtain ⟨hfin, hsign, hmag⟩ := two32_classes
  obtain ⟨e, m, hlow, hm, hnorm⟩ := exists_scaled (lowBits x)
  have hprod : fmag x * 2 ^ 32 = m * 2 ^ (e + 32) := by
    rw [fmag_eq_lowMag, hlow, lowMag_scaled e m (by omega) hnorm, pow_add, Nat.mul_assoc]
  have hle := roundMag_le (m * 2 ^ (e + 32) * 2 ^ 149) (2 ^ 149)
  rw [fmul_of_finite site hx hfin, hs, hsign, hmag, bne_self_eq_false, ← Nat.mul_assoc, hprod, isFinite_iff,
    isInf_iff, fmag_eq_lowMag (mkF _ _), lowBits_mkF _ _ (by omega)]
  refine ⟨fsign_mkF _ _ (by omega), ?_⟩
  rcases roundMag_exact_or_overflow (j := e + 32) (Nat.two_pow_pos 149) hm (by omega) with hexact | ⟨hinf, hbig⟩
  · exact .inl hexact
  · exact .inr ⟨hinf, (by decide : 2 ^ 32 * 2 ^ 149 ≤ 2 ^ 23 * 2 ^ 254).trans hbig⟩

theorem delta_of_nan_or_neg {x : F32} (h : isNaN x = true ∨ fsign x = true) : delta x = 0 :=
  f2u32_fmul_of_nan_or_neg [] h rfl

/-- Where the product overflows, so does the truncation of the exact product. -/
theorem toNat_delta_of_finite {x : F32} (hx : isFinite x = true) (hs : fsign x = false) :
    (delta x).toNat = min (2 ^ 32 - 1) (fmag x * 2 ^ 32 / 2 ^ 149) := by
  obtain ⟨hsign, ⟨hfin, hmag⟩ | ⟨hinf, hbig⟩⟩ := fmul_two32_exact_or_inf [] hx hs
  · rw [delta, toNat_f2u32_of_finite hfin hsign, hmag]
  · have : 2 ^ 32 ≤ fmag x * 2 ^ 32 / 2 ^ 149 := (Nat.le_div_iff_mul_le (Nat.two_pow_pos 149)).2 hbig
    rw [delta, toNat_f2u32_of_inf hinf hsign]
    omega

theorem toNat_delta_of_inf {x : F32} (hx : isInf x = true) (hs : fsign x = false) :
    (delta x).toNat = 2 ^ 32 - 1 := by
  obtain ⟨⟨hprod, -⟩, -⟩ := inf_mul_div [] hx (y := F32.two32) rfl
  obtain ⟨-, hnum, -⟩ := classes_of_isInf hprod
  refine toNat_f2u32_of_inf hprod ?_
  rw [sign_of_nan_or_mkF (fmul_nan_or_number [] x F32.two32) hnum, hs]
  rfl

/-! ### START -/

/-- The amounts that `START` guards make the formula 0 for every draw. -/
theorem f2u32_fmul_u2f_of_guarded (site : Site) {r : F32} (u : Word)
    (h : isZero r = true ∨ fsign r = true ∨ isNaN r = true) : f2u32 (fmul site r (u2f u.toNat)) = 0 := by
  rcases h with hzero | hneg | hnan
  · exact f2u32_of_isZero (isZero_fmul_of_isZero site hzero (isFinite_u2f u.isLt))
  · exact f2u32_fmul_of_nan_or_neg site (.inr hneg) (fsign_u2f _)
  · exact f2u32_fmul_of_nan_or_neg site (.inl hnan) (fsign_u2f _)

theorem start_of_guarded {r : F32} (u : Word) (h : isZero r = true ∨ fsign r = true ∨ isNaN r = true) :
    start r u = 0 := by
  unfold start
  rw [if_pos (by simpa [or_assoc] using h)]

/-- The guard of `START` changes nothing of its formula (`42_oscillator.md` R184). -/
theorem start_eq (r : F32) (u : Word) (site : Site) : start r u = f2u32 (fmul site r (u2f u.toNat)) := by
  by_cases h : isZero r = true ∨ fsign r = true ∨ isNaN r = true
  · rw [start_of_guarded u h, f2u32_fmul_u2f_of_guarded site u h]
  · unfold start
    rw [if_neg (by simpa [or_assoc] using h)]
    exact f2u32_eq_of_sameF32 (fmul_sameF32 _ _ _ _)

/-- Settles O36, one lemma for each class of increment. -/
theorem incrementAndStartingPhase : Obligations.IncrementAndStartingPhase :=
  ⟨fun _ => ⟨delta_of_nan_or_neg, toNat_delta_of_finite, toNat_delta_of_inf⟩,
    fun r u site => ⟨start_eq r u site, start_of_guarded u⟩⟩

end Sys2Proof.Machine
end

section
/-! SUPPORT. The frame index and the unison count as clamped truncations (`42_oscillator.md` R188, `43_unison_voice.md`
R202). -/

namespace Sys2Proof.Machine

/-! ### The truncation of a value by its class -/

theorem f2i_nonpos_of_nan_or_neg {x : F32} (h : isNaN x = true ∨ fsign x = true) : f2i x ≤ 0 := by
  unfold f2i
  cases hn : isNaN x with
  | true => simp
  | false =>
    obtain hs : fsign x = true := h.resolve_left (by simp [hn])
    simp only [hs, Bool.false_eq_true, if_false, if_true]
    omega

theorem f2i_of_finite_nonneg {x : F32} (hx : isFinite x = true) (hs : fsign x = false) :
    f2i x = (min (fmag x / 2 ^ 149) (2 ^ 31 - 1) : Nat) := by
  simp [f2i, classes_of_isFinite hx, hs, ftrunc]

theorem f2i_of_pos_inf {x : F32} (hx : isInf x = true) (hs : fsign x = false) : f2i x = 2 ^ 31 - 1 := by
  simp [f2i_of_inf hx, hs]

/-! ### The two clamps -/

theorem frameIdx_of_nonpos {x : F32} (b : BankSlot) (h : f2i x ≤ 0) : frameIdx x b = 0 := by
  unfold frameIdx clampi
  omega

theorem frameIdx_of_nonneg {x : F32} {b : BankSlot} {n : Nat} (h : f2i x = n) (hb : 1 ≤ b.numFrames) :
    frameIdx x b = min n (b.numFrames - 1) := by
  unfold frameIdx clampi
  omega

/-- Of any build with room for one copy, legal or not. -/
theorem unisonCount_in_range {k : Config} (x : F32) (hk : 1 ≤ k.maxUnison) :
    1 ≤ unisonCount k x ∧ unisonCount k x ≤ k.maxUnison := by
  unfold unisonCount clampi
  omega

theorem unisonCount_of_nonpos (k : Config) {x : F32} (h : f2i x ≤ 0) : unisonCount k x = 1 := by
  unfold unisonCount clampi
  omega

theorem unisonCount_of_nonneg {k : Config} {x : F32} {n : Nat} (h : f2i x = n) :
    unisonCount k x = max 1 (min n k.maxUnison) := by
  unfold unisonCount clampi
  omega

/-- Settles O37: each count is the truncation clamped, and the saturation of the truncation is above the clamp. -/
theorem frameIndexAndUnisonCountAreClamped : Obligations.FrameIndexAndUnisonCountAreClamped := by
  constructor
  · intro x b hb
    refine ⟨frameIdx_lt x hb, fun h => frameIdx_of_nonpos b (f2i_nonpos_of_nan_or_neg h), fun hx hs hmax => ?_,
      fun hx hs hmax => ?_⟩
    · rw [frameIdx_of_nonneg (f2i_of_finite_nonneg hx hs) hb]
      omega
    · rw [frameIdx_of_nonneg (n := 2 ^ 31 - 1) (f2i_of_pos_inf hx hs) hb]
      omega
  · intro k x hk
    obtain ⟨hlo, hhi⟩ := unisonCount_in_range x hk
    refine ⟨hlo, hhi, fun h => unisonCount_of_nonpos k (f2i_nonpos_of_nan_or_neg h), fun hx hs hmax => ?_,
      fun hx hs hmax => ?_⟩
    · rw [unisonCount_of_nonneg (f2i_of_finite_nonneg hx hs)]
      omega
    · rw [unisonCount_of_nonneg (n := 2 ^ 31 - 1) (f2i_of_pos_inf hx hs)]
      omega

end Sys2Proof.Machine
end

section
/-! SUPPORT. What `OSC.STEP` gives for each element (`42_oscillator.md` R183, R186): the ticked cells, the advanced
phase and the sample; and the phase after any number of steps (R191). -/

namespace Sys2Proof.Machine

/-! ### One element of a step -/

theorem oscDeltas_getD {w : Log} {e : Nat} {c : LogCell} (h : w[e]? = some c) :
    (oscDeltas w).getD e 0 = delta c.cur := by
  simp [oscDeltas, List.getD, h]

theorem linCur_of_getElem? {w : Lin} {e : Nat} {c : LinCell} (h : w[e]? = some c) : linCur w e = c.cur := by
  simp [linCur, List.getD, h]

theorem oscStep_pinc (k : Config) (site : Site) (bank : BankSlot) (o : Osc) :
    (oscStep k site bank o).1.pinc = logTick1 (0 :: site) o.pinc := rfl

theorem oscStep_frame (k : Config) (site : Site) (bank : BankSlot) (o : Osc) :
    (oscStep k site bank o).1.frame = linTick1 (1 :: site) o.frame := rfl

/-- The phases of a step advance by the increments that the same step ticked. -/
theorem oscStep_phase (k : Config) (site : Site) (bank : BankSlot) (o : Osc) :
    (oscStep k site bank o).1.phase
      = o.phase.mapIdx fun e p => p + (oscDeltas (oscStep k site bank o).1.pinc).getD e 0 := rfl

/-- The samples of a step are read from the oscillator as the step leaves it. -/
theorem oscStep_samples (k : Config) (site : Site) (bank : BankSlot) (o : Osc) :
    (oscStep k site bank o).2 = resampleMasked k (2 :: site) bank
      ((oscStep k site bank o).1.phase.mapIdx fun e p =>
        ((oscDeltas (oscStep k site bank o).1.pinc).getD e 0,
          frameIdx (linCur (oscStep k site bank o).1.frame e) bank, p)) o.omask := rfl

section
variable (k : Config) (site : Site) (bank : BankSlot) {o : Osc} {e : Nat} {p : Word} {pc : LogCell} {fc : LinCell}

theorem oscStep_pinc_getElem? (hpc : o.pinc[e]? = some pc) :
    (oscStep k site bank o).1.pinc[e]? = some ⟨fmul (e :: 0 :: site) pc.cur pc.fac, pc.fac⟩ := by
  rw [oscStep_pinc, logTick1_getElem?, hpc, Option.map_some]

theorem oscStep_frame_getElem? (hfc : o.frame[e]? = some fc) :
    (oscStep k site bank o).1.frame[e]? = some ⟨fadd (e :: 1 :: site) fc.cur fc.inc, fc.inc⟩ := by
  rw [oscStep_frame, linTick1_getElem?, hfc, Option.map_some]

theorem oscStep_phase_getElem? (hp : o.phase[e]? = some p) (hpc : o.pinc[e]? = some pc) :
    (oscStep k site bank o).1.phase[e]? = some (p + delta (fmul (e :: 0 :: site) pc.cur pc.fac)) := by
  rw [oscStep_phase, List.getElem?_mapIdx, hp, Option.map_some, oscDeltas_getD (oscStep_pinc_getElem? k site bank hpc)]

theorem oscStep_sample_getElem? (hp : o.phase[e]? = some p) (hpc : o.pinc[e]? = some pc)
    (hfc : o.frame[e]? = some fc) :
    (oscStep k site bank o).2[e]? = some (if sel o.omask e
      then resample k (e :: 2 :: site) bank (delta (fmul (e :: 0 :: site) pc.cur pc.fac))
        (frameIdx (fadd (e :: 1 :: site) fc.cur fc.inc) bank) (p + delta (fmul (e :: 0 :: site) pc.cur pc.fac))
      else F32.zero) := by
  rw [oscStep_samples, resampleMasked, List.getElem?_mapIdx, List.getElem?_mapIdx,
    oscStep_phase_getElem? k site bank hp hpc, Option.map_some, Option.map_some,
    oscDeltas_getD (oscStep_pinc_getElem? k site bank hpc), linCur_of_getElem? (oscStep_frame_getElem? k site bank hfc)]

end

/-- Settles O40, with the place of each float result that one element of the step draws. -/
theorem oscillatorStepsOneSample : Obligations.OscillatorStepsOneSample := by
  intro k site bank o e p pc fc hp hpc hfc
  exact ⟨e :: 0 :: site, e :: 1 :: site, e :: 2 :: site, rfl, oscStep_pinc_getElem? k site bank hpc,
    oscStep_frame_getElem? k site bank hfc, oscStep_phase_getElem? k site bank hp hpc,
    oscStep_sample_getElem? k site bank hp hpc hfc⟩

/-! ### A constant increment -/

/-- A tick by the factor 1.0 keeps the increment in units of 2^−32; of a NaN it may change the payload only. -/
theorem delta_fmul_one (site : Site) (x : F32) : delta (fmul site x F32.one) = delta x := by
  cases hx : isNaN x with
  | true =>
    obtain ⟨-, -, -, hprod, -⟩ := nan_operand site (y := F32.one) (.inl hx)
    rw [delta_of_nan_or_neg (.inl hprod), delta_of_nan_or_neg (.inl hx)]
  | false => rw [fmul_one site hx]

/-- One increment and n more are n + 1 increments, modulo 2^32. -/
theorem add_ofNat_mul_succ (p d : Word) (n : Nat) :
    p + d + BitVec.ofNat 32 (n * d.toNat) = p + BitVec.ofNat 32 ((n + 1) * d.toNat) := by
  rw [Nat.succ_mul, BitVec.ofNat_add, BitVec.ofNat_toNat, BitVec.setWidth_eq, BitVec.add_assoc, BitVec.add_comm d]

/-- The phase has no error term: each step adds the same increment modulo 2^32 (`42_oscillator.md` R191). -/
theorem phase_after_steps (k : Config) (bank : BankSlot) (sites : List Site) {o : Osc} {e : Nat} {p : Word}
    {c : LogCell} (hp : o.phase[e]? = some p) (hc : o.pinc[e]? = some c) (hfac : c.fac = F32.one) :
    (sites.foldl (fun q site => (oscStep k site bank q).1) o).phase[e]?
      = some (p + BitVec.ofNat 32 (sites.length * (delta c.cur).toNat)) := by
  induction sites generalizing o p c with
  | nil => simpa using hp
  | cons site sites ih =>
    have hphase := oscStep_phase_getElem? k site bank hp hc
    have hpinc := oscStep_pinc_getElem? k site bank hc
    rw [hfac] at hphase hpinc
    rw [delta_fmul_one] at hphase
    rw [List.foldl_cons, ih hphase hpinc rfl, delta_fmul_one, add_ofNat_mul_succ, List.length_cons]

/-- Settles O38: whole periods vanish modulo 2^32. -/
theorem phaseAccumulatesWithoutDrift : Obligations.PhaseAccumulatesWithoutDrift := by
  intro k bank o sites e p c hp hc hfac
  have hphase := phase_after_steps k bank sites hp hc hfac
  refine ⟨hphase, fun hperiod => ?_⟩
  have hzero : BitVec.ofNat 32 (sites.length * (delta c.cur).toNat) = 0#32 :=
    BitVec.eq_of_toNat_eq (by simpa using Nat.mod_eq_zero_of_dvd hperiod)
  rw [hphase, hzero, BitVec.add_zero]

end Sys2Proof.Machine
end

section
/-! SUPPORT. The draws of `OSC.REMASK` (`42_oscillator.md` R190): one for each rising element, in ascending order. -/

namespace Sys2Proof.Machine

/-- A count of one for each place that meets a predicate is the number of these places. -/
theorem sum_mapIdx_indicator {α : Type} (up : Nat → Bool) (xs : List α) :
    (xs.mapIdx fun j _ => if up j then 1 else 0).sum = ((List.range xs.length).filter up).length := by
  induction xs using List.reverseRecOn with
  | nil => rfl
  | append_singleton xs x ih =>
    rw [List.mapIdx_concat, List.sum_append, ih, List.length_append, List.length_singleton, List.range_succ,
      List.filter_append, List.length_append]
    cases h : up xs.length <;> simp [h]

/-- One visit of `OSC.REMASK`: a rising element takes the next draw, any other keeps its phase. -/
def remaskVisit (o : Osc) (newmask : Mask) (r : Nat → F32) (e : Nat) (p : Word) (n : Nat) : Word × Nat :=
  if rising o newmask e then (start (r e) (Config.draw32 n), n + 1) else (p, n)

theorem remaskVisit_draws (o : Osc) (newmask : Mask) (r : Nat → F32) (e : Nat) (p : Word) (n : Nat) :
    (remaskVisit o newmask r e p n).2 = n + if rising o newmask e then 1 else 0 := by
  unfold remaskVisit
  split <;> rfl

theorem remaskVisit_phase (o : Osc) (newmask : Mask) (r : Nat → F32) (e : Nat) (p : Word) (n : Nat) :
    (remaskVisit o newmask r e p n).1 = if rising o newmask e then start (r e) (Config.draw32 n) else p := by
  unfold remaskVisit
  split <;> rfl

/-- The rising elements below an element. -/
def risingBefore (o : Osc) (newmask : Mask) (e : Nat) : Nat := ((List.range e).filter (rising o newmask)).length

theorem oscRemask_eq (o : Osc) (newmask : Mask) (r : Nat → F32) (draws : Nat) :
    oscRemask o newmask r draws =
      ({ o with phase := (mapAcc (remaskVisit o newmask r) 0 o.phase draws).1, omask := newmask },
        (mapAcc (remaskVisit o newmask r) 0 o.phase draws).2) := rfl

/-- Visiting some elements takes one draw for each rising one. -/
theorem remaskVisit_count (o : Osc) (newmask : Mask) (r : Nat → F32) (ps : List Word) (draws : Nat) :
    (mapAcc (remaskVisit o newmask r) 0 ps draws).2 = draws + risingBefore o newmask ps.length := by
  rw [mapAcc_count _ _ (remaskVisit_draws o newmask r), risingBefore, ← sum_mapIdx_indicator]
  simp only [Nat.zero_add]

theorem oscRemask_draws (o : Osc) (newmask : Mask) (r : Nat → F32) (draws : Nat) :
    (oscRemask o newmask r draws).2 = draws + risingBefore o newmask o.phase.length :=
  remaskVisit_count o newmask r o.phase draws

/-- A rising element takes the draw after those of the rising elements below it. -/
theorem oscRemask_phase_getElem? (o : Osc) (newmask : Mask) (r : Nat → F32) (draws e : Nat) :
    (oscRemask o newmask r draws).1.phase[e]? = (o.phase[e]?).map fun p =>
      if rising o newmask e then start (r e) (Config.draw32 (draws + risingBefore o newmask e)) else p := by
  rw [oscRemask_eq]
  dsimp only
  rw [mapAcc_getElem?, Nat.zero_add]
  rcases Nat.lt_or_ge e o.phase.length with he | he
  · rw [remaskVisit_count, List.length_take_of_le he.le]
    simp only [remaskVisit_phase]
  · rw [List.getElem?_eq_none he, Option.map_none, Option.map_none]

/-- Settles O39: the draws are counted along the visit of the elements. -/
theorem remaskReseedsRisingElements : Obligations.RemaskReseedsRisingElements := fun o newmask r draws =>
  ⟨oscRemask_draws o newmask r draws, rfl, oscRemask_phase_getElem? o newmask r draws⟩

end Sys2Proof.Machine
end

section
/-! SUPPORT. `PACK` (`43_unison_voice.md` R205): the group count, the masks bit by bit, and the place of each copy. -/

namespace Sys2Proof.Machine

/-! ### The group count -/

theorem v_pos_of_legal {k : Config} (hk : k.legal = true) : 1 ≤ k.v := by
  have := v_of_legal hk
  omega

/-- The groups below the last one are full, and the last one is not empty. -/
theorem packGroups_bounds {k : Config} {n : Nat} (hv : 1 ≤ k.v) (hn : 1 ≤ n) :
    1 ≤ packGroups k n ∧ (packGroups k n - 1) * k.v < n ∧ n ≤ packGroups k n * k.v := by
  have hgroups : packGroups k n = (n - 1) / k.v + 1 := by
    rw [packGroups, show n + k.v - 1 = n - 1 + k.v by omega, Nat.add_div_right _ hv]
  have hdiv := Nat.div_add_mod' (n - 1) k.v
  have hmod := Nat.mod_lt (n - 1) hv
  rw [hgroups, Nat.add_sub_cancel, Nat.succ_mul]
  exact ⟨Nat.le_add_left _ _, by omega, by omega⟩

theorem packGroups_le {k : Config} {n : Nat} (hn : n ≤ k.maxUnison) : packGroups k n ≤ k.k :=
  Nat.div_le_div_right (by omega)

/-- The copies of the last group. -/
theorem packTail_bounds {k : Config} {n : Nat} (hv : 1 ≤ k.v) (hn : 1 ≤ n) :
    1 ≤ packTail k n ∧ packTail k n ≤ k.v ∧ (packGroups k n - 1) * k.v + packTail k n = n := by
  obtain ⟨hpos, hlt, hle⟩ := packGroups_bounds hv hn
  obtain ⟨full, hfull⟩ : ∃ full, packGroups k n = full + 1 := ⟨_, (Nat.sub_add_cancel hpos).symm⟩
  rw [hfull, Nat.succ_mul] at hle
  rw [hfull, Nat.add_sub_cancel] at hlt
  rw [packTail, hfull, Nat.add_sub_cancel]
  omega

/-! ### The masks -/

/-- The bits of a run of ones from bit a up to bit v. -/
theorem maskBit_run {a v : Nat} (ha : a ≤ v) (hv : v ≤ 8) (j : Nat) :
    maskBit (BitVec.ofNat 8 (2 ^ v - 2 ^ a)) j = (decide (a ≤ j) && decide (j < v)) := by
  have hrun : 2 ^ v - 2 ^ a = 2 ^ a * (2 ^ (v - a) - 1) := by
    rw [Nat.mul_sub, ← pow_add, Nat.add_sub_cancel' ha, Nat.mul_one]
  rw [maskBit, BitVec.getLsbD_ofNat, hrun, Nat.testBit_two_pow_mul, Nat.testBit_two_pow_sub_one, Bool.eq_iff_iff]
  simp only [Bool.and_eq_true, decide_eq_true_eq]
  omega

theorem maskBit_packMask {k : Config} (hk : k.legal = true) (n g j : Nat) :
    maskBit (packMask k n g) j = (decide (j < k.v) && (decide (g + 1 < packGroups k n)
      || (decide (g + 1 = packGroups k n) && decide (k.v - packTail k n ≤ j)))) := by
  have hv := v_le_of_legal hk
  unfold packMask
  split
  next hfull => simpa [hfull] using maskBit_run (Nat.zero_le k.v) hv j
  split
  next hfull htail => simp [maskBit_run (Nat.sub_le _ _) hv, htail, Bool.and_comm]
  next hfull htail => simp [hfull, htail, maskBit]

/-! ### The copies -/

theorem copyAt_isSome (k : Config) (n g j : Nat) :
    (copyAt k n g j).isSome = (decide (g + 1 < packGroups k n)
      || (decide (g + 1 = packGroups k n) && decide (k.v - packTail k n ≤ j))) := by
  unfold copyAt
  split
  next hfull => simp [hfull]
  split
  next hfull htail => simp [htail]
  next hfull htail => simpa [hfull] using htail

/-- Group g of the full groups holds the copies g·V to g·V + V − 1. -/
theorem full_group_place_iff {v full g j q : Nat} (hj : j < v) (hg : g < full) :
    g * v + j = q ↔ q < full * v ∧ g = q / v ∧ j = q % v := by
  constructor
  · rintro rfl
    have hnext : (g + 1) * v ≤ full * v := Nat.mul_le_mul_right v hg
    rw [Nat.succ_mul] at hnext
    have hv : 0 < v := by omega
    refine ⟨by omega, ?_, ?_⟩
    · rw [Nat.add_comm, Nat.add_mul_div_right _ _ hv, Nat.div_eq_of_lt hj, Nat.zero_add]
    · rw [Nat.add_comm, Nat.add_mul_mod_self_right, Nat.mod_eq_of_lt hj]
  · rintro ⟨-, rfl, rfl⟩
    exact Nat.div_add_mod' q v

/-- Copy q below the last group sits in group q div V, lane q mod V; a copy of the last group is right-aligned. -/
theorem copyAt_eq_some_iff {k : Config} {n g j q : Nat} (hn : 1 ≤ n) (hj : j < k.v) :
    copyAt k n g j = some q ↔
      q < n ∧ g = (if q < (packGroups k n - 1) * k.v then q / k.v else packGroups k n - 1)
      ∧ j = (if q < (packGroups k n - 1) * k.v then q % k.v
        else k.v - packTail k n + (q - (packGroups k n - 1) * k.v)) := by
  have hv : 1 ≤ k.v := by omega
  obtain ⟨hpos, -, -⟩ := packGroups_bounds hv hn
  obtain ⟨-, htail, hcount⟩ := packTail_bounds hv hn
  obtain ⟨full, hfull⟩ : ∃ full, packGroups k n = full + 1 := ⟨_, (Nat.sub_add_cancel hpos).symm⟩
  have hquot : q < full * k.v → q / k.v < full := (Nat.div_lt_iff_lt_mul hv).2
  rw [hfull, Nat.add_sub_cancel] at hcount
  simp only [copyAt, hfull, Nat.add_sub_cancel, Nat.add_lt_add_iff_right, Nat.add_right_cancel_iff]
  rcases Nat.lt_trichotomy g full with hg | rfl | hg
  · rw [if_pos hg, Option.some_inj, full_group_place_iff hj hg]
    split <;> omega
  · rw [if_neg (Nat.lt_irrefl g)]
    split <;> split <;> simp <;> omega
  · rw [if_neg (by omega), if_neg (by omega)]
    split <;> simp <;> omega

/-- Settles O41: the masks and the copies by the same two cases, full groups and the tail. -/
theorem packPlacesEveryCopy : Obligations.PackPlacesEveryCopy := by
  intro k n g j hk hn hmax hj G r
  obtain ⟨hpos, hlt, hle⟩ := packGroups_bounds (v_pos_of_legal hk) hn
  have hbit := maskBit_packMask hk n g
  refine ⟨hpos, packGroups_le hmax, hlt, hle, ?_, fun j' hj' => ?_, ?_, fun q => copyAt_eq_some_iff hn hj⟩
  · rw [hbit, decide_eq_true hj, Bool.true_and]
    rfl
  · rw [hbit, decide_eq_false (Nat.not_lt.2 hj'), Bool.false_and]
  · rw [hbit, copyAt_isSome, decide_eq_true hj, Bool.true_and]

end Sys2Proof.Machine
end

section
/-! SUPPORT. The rows of detune values (`43_unison_voice.md` R203, R204): the contract clause by clause, that the
default row meets it, and what every row that meets it does. -/

namespace Sys2Proof.Machine

/-! ### Rounding keeps the order -/

/-- Two quotients of one denominator are rounded in their order. -/
theorem roundMag_mono {p p' q : Nat} (hq : 0 < q) (h : p ≤ p') : roundMag p q ≤ roundMag p' q := by
  have hle := roundMag_le p q
  rcases h.eq_or_lt with rfl | hlt
  · exact le_rfl
  by_contra hover
  have hfin' : roundMag p' q < 255 * 2 ^ 23 := by omega
  have hfin : roundMag p q < 255 * 2 ^ 23 :=
    (roundMag_finite_iff p q hq).2 (h.trans_lt ((roundMag_finite_iff p' q hq).1 hfin'))
  have hmag := Nat.mul_lt_mul_of_pos_right (lowMag_strictMono (Nat.lt_of_not_le hover)) hq
  obtain ⟨hnear, -⟩ := roundMag_nearest hq hfin (roundMag p' q)
  obtain ⟨hnear', -⟩ := roundMag_nearest hq hfin' (roundMag p q)
  zify at hmag
  omega

theorem toNat_fabs (x : F32) : (fabs x).toNat = lowBits x := by
  rw [fabs, BitVec.toNat_and]
  exact Nat.and_two_pow_sub_one_eq_mod x.toNat 31

theorem lowBits_one : lowBits F32.one = 127 * 2 ^ 23 ∧ lowMag (127 * 2 ^ 23) = 2 ^ 149 := by decide

/-! ### The contract of a row -/

/-- The clauses of `detuneContract`: pair p stands at n mod 2 + 2p. -/
structure DetuneContract (n : Nat) (row : Nat → F32) : Prop where
  bounded : ∀ q < n, lowBits (row q) ≤ 127 * 2 ^ 23
  centre : n % 2 = 1 → isZero (row 0) = true
  opposite : ∀ p < n / 2, row (n % 2 + 2 * p + 1) = fnegate (row (n % 2 + 2 * p))
  sign : ∀ p < n / 2, fsign (row (n % 2 + 2 * p)) = fsign (row (n % 2))
  rising : ∀ p < n / 2, 1 ≤ p → lowBits (row (n % 2 + 2 * (p - 1))) ≤ lowBits (row (n % 2 + 2 * p))

theorem detuneContract_iff {n : Nat} {row : Nat → F32} : detuneContract n row = true ↔ DetuneContract n row := by
  have hcentre : (n % 2 = 0 ∨ isZero (row 0) = true) ↔ (n % 2 = 1 → isZero (row 0) = true) := by
    rw [← Nat.mod_two_ne_zero, imp_iff_not_or, not_ne_iff]
  simp only [detuneContract, toNat_fabs, Bool.and_eq_true, Bool.or_eq_true, List.all_eq_true, List.mem_range,
    decide_eq_true_eq, beq_iff_eq, hcentre, imp_and, forall_and]
  constructor
  · rintro ⟨⟨hbounded, hcentre⟩, ⟨hopposite, hsign⟩, hrising⟩
    exact ⟨hbounded, hcentre, hopposite, hsign, fun p hp hpos => (hrising p hp).resolve_left (by omega)⟩
  · intro h
    exact ⟨⟨h.bounded, h.centre⟩, ⟨h.opposite, h.sign⟩,
      fun p hp => (Nat.eq_zero_or_pos p).imp id (h.rising p hp)⟩

/-! ### The default row -/

/-- The value m/h of the default row, h the number of its pairs. -/
def detuneShare (n m : Nat) : F32 := fdiv [] (i2f m) (i2f (n / 2 : Nat))

theorem detuneDefault_eq (n q : Nat) : detuneDefault n q =
    if n % 2 = 1 then
      if q = 0 then F32.zero
      else if q % 2 = 1 then detuneShare n ((q + 1) / 2) else fnegate (detuneShare n (q / 2))
    else if q % 2 = 0 then detuneShare n (q / 2 + 1) else fnegate (detuneShare n ((q + 1) / 2)) := rfl

theorem detuneDefault_centre {n : Nat} (hn : n % 2 = 1) : detuneDefault n 0 = F32.zero := by
  rw [detuneDefault_eq, if_pos hn, if_pos rfl]

/-- Pair p of the default row is ±(p+1)/h (`43_unison_voice.md` R204). -/
theorem detuneDefault_pair (n p : Nat) :
    detuneDefault n (n % 2 + 2 * p) = detuneShare n (p + 1)
    ∧ detuneDefault n (n % 2 + 2 * p + 1) = fnegate (detuneShare n (p + 1)) := by
  rw [detuneDefault_eq, detuneDefault_eq]
  rcases Nat.mod_two_eq_zero_or_one n with heven | hodd
  · simp [heven, show (2 * p + 1 + 1) / 2 = p + 1 by omega]
  · simp [hodd, show (1 + 2 * p + 1) / 2 = p + 1 by omega, show (1 + 2 * p + 1) % 2 = 0 by omega]

/-- A copy is the middle one of an odd row or in one of its pairs. -/
theorem centre_or_pair {n q : Nat} (hq : q < n) :
    (n % 2 = 1 ∧ q = 0) ∨ ∃ p < n / 2, q = n % 2 + 2 * p ∨ q = n % 2 + 2 * p + 1 := by
  rcases Nat.lt_or_ge q (n % 2) with hcentre | hpair
  · exact .inl (by omega)
  · exact .inr ⟨(q - n % 2) / 2, by omega⟩

/-- The low bits of the float nearest to m/h. -/
def shareLow (h m : Nat) : Nat := roundMag (m * 2 ^ 149 * 2 ^ 149) (h * 2 ^ 149)

theorem i2f_natCast (n : Nat) : i2f n = u2f n := by
  rw [i2f, u2f, decide_eq_false (by omega), Int.natAbs_natCast]

theorem detuneShare_eq {n m : Nat} (hn : n ≤ 2 ^ 24) (hpos : 1 ≤ n / 2) (hm : m ≤ n / 2) :
    detuneShare n m = mkF false (shareLow (n / 2) m) := by
  obtain ⟨hfin, hmag⟩ := fmag_u2f (n := n / 2) (by omega)
  obtain ⟨hfin', hmag'⟩ := fmag_u2f (n := m) (by omega)
  have hzero : isZero (u2f (n / 2)) = false := (fmag_pos_iff _).1 (hmag ▸ Nat.mul_pos hpos (Nat.two_pow_pos _))
  rw [detuneShare, i2f_natCast, i2f_natCast, fdiv_of_finite [] hfin' hfin hzero, hmag, hmag', fsign_u2f, fsign_u2f]
  rfl

theorem shareLow_mono {h m m' : Nat} (hpos : 1 ≤ h) (hm : m ≤ m') : shareLow h m ≤ shareLow h m' :=
  roundMag_mono (Nat.mul_pos hpos (Nat.two_pow_pos _))
    (Nat.mul_le_mul_right _ (Nat.mul_le_mul_right _ hm))

theorem shareLow_self {h : Nat} (hpos : 1 ≤ h) : shareLow h h = 127 * 2 ^ 23 := by
  have hround := roundMag_lowMag (low := 127 * 2 ^ 23) (Nat.mul_pos hpos (Nat.two_pow_pos 149)) (by decide)
  rwa [lowBits_one.2, Nat.mul_comm] at hround

/-- The shares of the default row are positive and at most 1.0. -/
theorem detuneShare_bounds {n m : Nat} (hn : n ≤ 2 ^ 24) (hpos : 1 ≤ n / 2) (hm : m ≤ n / 2) :
    fsign (detuneShare n m) = false ∧ lowBits (detuneShare n m) = shareLow (n / 2) m
    ∧ shareLow (n / 2) m ≤ 127 * 2 ^ 23 := by
  have hle := (shareLow_mono hpos hm).trans_eq (shareLow_self hpos)
  rw [detuneShare_eq hn hpos hm, fsign_mkF _ _ (by omega), lowBits_mkF _ _ (by omega)]
  exact ⟨rfl, rfl, hle⟩

theorem detuneDefault_contract {n : Nat} (hn : n ≤ 2 ^ 24) : DetuneContract n (detuneDefault n) := by
  have hpair := detuneDefault_pair n
  have hshare := fun p (hp : p < n / 2) => detuneShare_bounds (m := p + 1) hn (by omega) hp
  refine ⟨fun q hq => ?bounded, fun hodd => ?centre, fun p _ => ?opposite, fun p hp => ?sign, fun p hp hpos => ?rising⟩
  case bounded =>
    rcases centre_or_pair hq with ⟨hodd, rfl⟩ | ⟨p, hp, hq⟩
    · rw [detuneDefault_centre hodd]
      decide
    · obtain ⟨-, hlow, hle⟩ := hshare p hp
      rcases hq with rfl | rfl <;> simpa [hpair, hlow] using hle
  case centre =>
    rw [detuneDefault_centre hodd]
    rfl
  case opposite =>
    obtain ⟨hfirst, hsecond⟩ := hpair p
    rw [hsecond, hfirst]
  case sign =>
    have hpositive : ∀ p < n / 2, fsign (detuneDefault n (n % 2 + 2 * p)) = false := fun p hp => by
      obtain ⟨hsign, -⟩ := hshare p hp
      rw [(hpair p).1, hsign]
    exact (hpositive p hp).trans (hpositive 0 (by omega)).symm
  case rising =>
    obtain ⟨-, hlow, -⟩ := hshare p hp
    obtain ⟨-, hlow', -⟩ := hshare (p - 1) (by omega)
    rw [(hpair p).1, (hpair (p - 1)).1, hlow, hlow']
    exact shareLow_mono (by omega) (by omega)

/-! ### Every row -/

/-- A row of a build with its own rows is that row where it meets the contract, and the default row otherwise. -/
theorem detuneRow_contract (k : Config) {n : Nat} (hn : n ≤ 2 ^ 24) : DetuneContract n (detuneRow k n) := by
  by_cases hopen : k.detuneRow = .other ∧ detuneContract n (Config.detuneRowOpen n) = true
  · have hrow : detuneRow k n = Config.detuneRowOpen n := funext fun q => by simp [detuneRow, hopen]
    rw [hrow]
    exact detuneContract_iff.1 hopen.2
  · have hrow : detuneRow k n = detuneDefault n := funext fun q => by
      cases hpolicy : k.detuneRow <;> simp_all [detuneRow]
    rw [hrow]
    exact detuneDefault_contract hn

/-- Pairs of opposite values add nothing to a sum. -/
theorem sum_range_pairs {f : Nat → Int} {o h : Nat} (hpair : ∀ p < h, f (o + 2 * p + 1) = -f (o + 2 * p)) :
    ((List.range (o + 2 * h)).map f).sum = ((List.range o).map f).sum := by
  induction h with
  | zero => rfl
  | succ h ih =>
    have hlast := hpair h (Nat.lt_succ_self h)
    rw [show o + 2 * (h + 1) = o + 2 * h + 1 + 1 by omega]
    simp only [List.range_succ, List.map_append, List.sum_append, List.map_cons, List.map_nil, List.sum_singleton,
      ih fun p hp => hpair p (Nat.lt_succ_of_lt hp)]
    omega

theorem fval_of_isZero {x : F32} (h : isZero x = true) : fval x = 0 := by
  rw [fval_eq_withSign, (isZero_iff x).1 h]
  cases fsign x <;> rfl

namespace DetuneContract
variable {n : Nat} {row : Nat → F32} (h : DetuneContract n row)
include h

theorem finite_le_one {q : Nat} (hq : q < n) : isFinite (row q) = true ∧ fmag (row q) ≤ 2 ^ 149 := by
  have hle := h.bounded q hq
  rw [isFinite_iff, fmag_eq_lowMag, ← lowBits_one.2]
  exact ⟨by omega, lowMag_strictMono.monotone hle⟩

theorem fval_opposite {p : Nat} (hp : p < n / 2) : fval (row (n % 2 + 2 * p + 1)) = -fval (row (n % 2 + 2 * p)) := by
  rw [h.opposite p hp, fval_fnegate]

theorem fmag_rising {p : Nat} (hp : p < n / 2) (hpos : 1 ≤ p) :
    fmag (row (n % 2 + 2 * (p - 1))) ≤ fmag (row (n % 2 + 2 * p)) := by
  rw [fmag_eq_lowMag, fmag_eq_lowMag]
  exact lowMag_strictMono.monotone (h.rising p hp hpos)

/-- The pairs cancel, and what an odd row has beside them is a zero. -/
theorem sum_eq_zero : ((List.range n).map fun q => fval (row q)).sum = 0 := by
  have hpairs := sum_range_pairs (f := fun q => fval (row q)) (o := n % 2) fun p hp => h.fval_opposite hp
  rw [Nat.mod_add_div] at hpairs
  rw [hpairs]
  rcases Nat.mod_two_eq_zero_or_one n with heven | hodd
  · rw [heven]
    rfl
  · rw [hodd]
    simpa using fval_of_isZero (h.centre hodd)

end DetuneContract

/-! ### The packed table -/

theorem detuneRom_eq (k : Config) (n g j : Nat) :
    detuneRom k n g j = ((copyAt k n g j).map (detuneRow k n)).getD 0 := by
  unfold detuneRom
  cases copyAt k n g j <;> rfl

/-- Settles O42: what the statement says of a row follows from the contract, which the default row meets too. -/
theorem detuneRowIsSymmetric : Obligations.DetuneRowIsSymmetric := by
  intro k n _ hn row
  have h : DetuneContract n row := detuneRow_contract k hn
  exact ⟨fun q hq => h.finite_le_one hq, h.centre, fun p hp => ⟨h.fval_opposite hp, h.sign p hp, h.fmag_rising hp⟩,
    h.sum_eq_zero, detuneRom_eq k n⟩

end Sys2Proof.Machine
end

section
/-! SUPPORT. Numbers that are not negative, `EXP2` of a finite number among them (`00_scope.md` R10), and the base
increment of a note (`43_unison_voice.md` R216). -/

namespace Sys2Proof.Machine

/-! ### Numbers that are not negative -/

theorem eq_of_sameF32 {x y : F32} (h : sameF32 x y) (hy : isNaN y = false) : x = y := by
  rcases h with h | ⟨-, hnan⟩
  · exact h
  · simp [hy] at hnan

theorem fmag_of_isZero {x : F32} (h : isZero x = true) : fmag x = 0 := by
  rw [fmag_eq_lowMag, (isZero_iff x).1 h, lowMag_zero]

theorem fsign_of_isPosFinite {x : F32} (h : isPosFinite x = true) : fsign x = false := by
  obtain ⟨hfin, -⟩ := classes_of_isPosFinite h
  obtain ⟨hpos, -⟩ := (isPosFinite_iff x).1 h
  have hzero : fkey F32.zero = 0 := by decide
  have hkey : fkey x = fval x := by simp [fkey, classes_of_isFinite hfin]
  simp only [flt, hzero, hkey, Bool.and_eq_true, decide_eq_true_eq] at hpos
  obtain ⟨-, hval⟩ := hpos
  rw [← decide_fval_neg hval.ne', decide_eq_false hval.le.not_gt]

theorem isZero_fmul_of_isZero_right (site : Site) {x y : F32} (hx : isFinite x = true) (hy : isZero y = true) :
    isZero (fmul site x y) = true := by
  rw [fmul_of_finite site hx (isFinite_of_isZero hy), fmag_of_isZero hy, Nat.mul_zero, roundMag_zero, isZero_mkF]

/-- A number that has the sign bit only as a zero. -/
def NonNeg (x : F32) : Prop := isNaN x = false ∧ (fsign x = true → isZero x = true)

/-- A positive finite factor makes no NaN and no negative number. -/
theorem fmul_nonNeg (site : Site) {x y : F32} (hx : isPosFinite x = true) (hy : NonNeg y) :
    NonNeg (fmul site x y) := by
  obtain ⟨hxfin, hx0⟩ := classes_of_isPosFinite hx
  obtain ⟨hnum, hneg⟩ := hy
  have hprod : isNaN (fmul site x y) = false := by
    rcases isFinite_or_isInf hnum with hfin | hinf
    · rw [fmul_of_finite site hxfin hfin]
      exact isNaN_mkF (roundMag_le _ _)
    · obtain ⟨hprod, -⟩ := inf_mul_div site hinf (classes_of_isFinite hxfin).1
      rw [hx0] at hprod
      exact (classes_of_isInf hprod.2).2.1
  refine ⟨hprod, fun hsign => ?_⟩
  rw [sign_of_nan_or_mkF (fmul_nan_or_number site x y) hprod, fsign_of_isPosFinite hx, Bool.false_bne] at hsign
  exact isZero_fmul_of_isZero_right site hxfin (hneg hsign)

/-- A positive finite divisor makes no NaN and no negative number. -/
theorem fdiv_nonNeg (site : Site) {x y : F32} (hx : NonNeg x) (hy : isPosFinite y = true) :
    NonNeg (fdiv site x y) := by
  obtain ⟨hyfin, hy0⟩ := classes_of_isPosFinite hy
  obtain ⟨hnum, hneg⟩ := hx
  have hquot : isNaN (fdiv site x y) = false := by
    rcases isFinite_or_isInf hnum with hfin | hinf
    · rw [fdiv_of_finite site hfin hyfin hy0]
      exact isNaN_mkF (roundMag_le _ _)
    · obtain ⟨hynum, hyinf⟩ := classes_of_isFinite hyfin
      obtain ⟨-, hquot⟩ := inf_mul_div site hinf hynum
      rw [hyinf] at hquot
      exact (classes_of_isInf hquot).2.1
  refine ⟨hquot, fun hsign => ?_⟩
  rw [sign_of_nan_or_mkF (fdiv_nan_or_number site x y) hquot, fsign_of_isPosFinite hy, Bool.bne_false] at hsign
  have hx0 := hneg hsign
  rw [fdiv_of_finite site (isFinite_of_isZero hx0) hyfin hy0, fmag_of_isZero hx0, Nat.zero_mul, roundMag_zero,
    isZero_mkF]

/-! ### EXP2 -/

theorem clampNonneg_nonNeg (r : F32) : NonNeg (clampNonneg r) := by
  unfold clampNonneg
  split
  next => exact ⟨rfl, by decide⟩
  next hnum =>
    rw [Bool.not_eq_true] at hnum
    split
    next hneg =>
      rw [Bool.and_eq_true] at hneg
      exact ⟨by simpa using hnum, fun hsign => by simp [hneg.1] at hsign⟩
    next hpos => exact ⟨hnum, by simpa using hpos⟩

theorem exactExponent_bounds {x : F32} {i : Int} (h : exactExponent x = some i) : -126 ≤ i ∧ i ≤ 127 := by
  simp only [exactExponent, Option.ite_none_right_eq_some, Bool.and_eq_true, decide_eq_true_eq, Option.some.injEq] at h
  obtain ⟨⟨⟨-, hlo⟩, hhi⟩, rfl⟩ := h
  exact ⟨hlo, hhi⟩

/-- A power of two by its exponent field alone. -/
theorem nonNeg_exactPower {i : Int} (hlo : -126 ≤ i) (hhi : i ≤ 127) :
    NonNeg (BitVec.ofNat 32 ((i + 127).toNat * 2 ^ 23)) := by
  have hpattern : BitVec.ofNat 32 ((i + 127).toNat * 2 ^ 23) = mkF false ((i + 127).toNat * 2 ^ 23) := by
    rw [mkF, if_neg Bool.false_ne_true, Nat.zero_add]
  rw [hpattern]
  exact ⟨isNaN_mkF (by omega), fun hsign => by rw [fsign_mkF _ _ (by omega)] at hsign; cases hsign⟩

theorem exp2_zero (k : Config) : exp2 k F32.zero = F32.one := if_pos rfl

/-- `EXP2` of a finite number is neither negative nor NaN (`00_scope.md` R10). -/
theorem exp2_nonNeg (k : Config) {x : F32} (hx : isFinite x = true) : NonNeg (exp2 k x) := by
  have hopen := clampNonneg_nonNeg (Config.exp2Open x)
  unfold exp2
  rw [if_pos hx]
  split
  next => exact ⟨rfl, by decide⟩
  split
  next =>
    split
    next i hi =>
      obtain ⟨hlo, hhi⟩ := exactExponent_bounds hi
      exact nonNeg_exactPower hlo hhi
    next => exact hopen
  next => exact hopen

/-- The integer-exactness property: the exponent goes into the exponent field. -/
theorem exp2_of_exactExponent {k : Config} (hexact : k.exp2IntegerExact = true) {x : F32} {i : Int}
    (hx : exactExponent x = some i) (h0 : x ≠ F32.zero) :
    exp2 k x = BitVec.ofNat 32 ((i + 127).toNat * 2 ^ 23) := by
  simp [exp2, h0, hexact, hx]

/-! ### The increment of a note -/

theorem isPosFinite_a440 : isPosFinite F32.a440 = true := by decide +kernel

theorem isFinite_i2f {i : Int} (hi : i.natAbs < 2 ^ 32) : isFinite (i2f i) = true := by
  have hround := roundMag_u2f_finite hi
  rwa [isFinite_iff, i2f, lowBits_mkF _ _ (by omega)]

/-- Twelve semitones to an octave: the quotient is finite because it is smaller than the dividend. -/
theorem isFinite_fdiv_twelve (site : Site) {x : F32} (hx : isFinite x = true) :
    isFinite (fdiv site x F32.twelve) = true := by
  have htwelve : fmag F32.twelve = 12 * 2 ^ 149 := by decide
  have hle := lowMag_le_of_finite ((isFinite_iff x).1 hx)
  rw [← fmag_eq_lowMag] at hle
  have hround : roundMag (fmag x * 2 ^ 149) (12 * 2 ^ 149) < 255 * 2 ^ 23 := by
    rw [roundMag_finite_iff _ _ (by decide)]
    omega
  rw [fdiv_of_finite site hx rfl rfl, htwelve, isFinite_iff, lowBits_mkF _ _ (by omega)]
  exact hround

/-- The increment by its numerator, the pitch of the note, where that is a finite number. -/
theorem noteInc_of_pitch {k : Config} {site : Site} {rate octaves factor pitch : F32} {note : Nat}
    (hrate : isPosFinite rate = true) (hnote : note ≤ 127)
    (hoctaves : fdiv [] (i2f ((note : Int) - 69)) F32.twelve = octaves) (hfactor : exp2 k octaves = factor)
    (hpitch : fmul [] F32.a440 factor = pitch) (hfin : isFinite pitch = true) :
    noteInc k site rate note = fdiv site pitch rate := by
  obtain ⟨hratefin, hrate0⟩ := classes_of_isPosFinite hrate
  have hproduct : fmul (1 :: site) F32.a440 factor = pitch := by
    have hnum := (classes_of_isFinite hfin).1
    rw [← hpitch] at hnum ⊢
    exact eq_of_sameF32 (fmul_sameF32 _ _ _ _) hnum
  rw [noteInc, fdiv_site (2 :: site) [] (isFinite_i2f (by omega)) rfl rfl, hoctaves, hfactor, hproduct,
    fdiv_site (0 :: site) site hfin hratefin hrate0]

theorem noteInc_nonNeg (k : Config) (site : Site) {rate : F32} {note : Nat} (hrate : isPosFinite rate = true)
    (hnote : note ≤ 127) : NonNeg (noteInc k site rate note) :=
  fdiv_nonNeg _ (fmul_nonNeg _ isPosFinite_a440
    (exp2_nonNeg k (isFinite_fdiv_twelve _ (isFinite_i2f (by omega))))) hrate

/-- Settles O43: the octaves by their pitches, the class by the chain of numbers that are not negative. -/
theorem noteIncrementFollowsTheNote : Obligations.NoteIncrementFollowsTheNote := by
  intro k site rate note hpos hfin hnote
  have hrate := (isPosFinite_iff rate).2 ⟨hpos, hfin⟩
  obtain ⟨hnum, hneg⟩ := noteInc_nonNeg k site hrate hnote
  refine ⟨⟨_, _, _, rfl⟩, ?a4, fun hexact => ?octaves, hnum, hneg⟩
  case a4 => exact noteInc_of_pitch hrate (by decide) (by decide) (exp2_zero k) (by decide) rfl
  case octaves =>
    have hup := exp2_of_exactExponent hexact (x := 0x3F800000) (i := 1) (by decide) (by decide)
    have hdown := exp2_of_exactExponent hexact (x := 0xBF800000) (i := -1) (by decide) (by decide)
    exact ⟨noteInc_of_pitch hrate (by decide) (by decide) hup (by decide) rfl,
      noteInc_of_pitch hrate (by decide) (by decide) hdown (by decide) rfl⟩

end Sys2Proof.Machine
end

section
/-! SUPPORT. The targets of a copy (`43_unison_voice.md` R206, R207): with no detune and no transposition the semitones
are `+0.0`, whatever the copy's place in the row. -/

namespace Sys2Proof.Machine

/-- A value of the packed table is finite, because a place holds a copy of the row or nothing. -/
theorem isFinite_detuneRom (k : Config) {n j : Nat} (g : Nat) (hpos : 1 ≤ n) (hn : n ≤ 2 ^ 24) (hj : j < k.v) :
    isFinite (detuneRom k n g j) = true := by
  rw [detuneRom_eq]
  cases hcopy : copyAt k n g j with
  | none =>
    rw [Option.map_none, Option.getD_none]
    rfl
  | some q =>
    obtain ⟨hq, -⟩ := (copyAt_eq_some_iff hpos hj).1 hcopy
    exact ((detuneRow_contract k hn).finite_le_one hq).1

/-- A zero of either sign and `+0.0` add to `+0.0`. -/
theorem fadd_isZero_zero (site : Site) {x : F32} (hx : isZero x = true) : fadd site x F32.zero = F32.zero := by
  have hzero : fval F32.zero = 0 ∧ fsign F32.zero = false := by decide
  obtain ⟨hval, hsign⟩ := hzero
  rw [fadd_exact_zero site (isFinite_of_isZero hx) rfl (by rw [fval_of_isZero hx, hval]; rfl), hsign, Bool.and_false]
  rfl

theorem fdiv_zero_twelve (site : Site) : fdiv site F32.zero F32.twelve = F32.zero := by
  rw [fdiv_site site [] rfl rfl rfl]
  decide

theorem ratio_zero (k : Config) (site : Site) : ratio k site F32.zero = F32.one := by
  rw [ratio, fdiv_zero_twelve, exp2_zero]

theorem semitones_eq_zero {k : Config} {cl : Cluster} {l n g e : Nat} (site : Site)
    (hrom : isFinite (detuneRom k n g (laneOf e)) = true) (hdetune : cl.cur pDetune (2 * l + chOf e) = F32.zero)
    (hrange : isFinite (cl.cur pDetuneRange (2 * l + chOf e)) = true)
    (htranspose : cl.cur pTranspose (2 * l + chOf e) = F32.zero) : semitones k site cl l n g e = F32.zero := by
  rw [semitones, hdetune, htranspose]
  exact fadd_isZero_zero _ (isZero_fmul_of_isZero_right _ hrom (isZero_fmul_of_isZero _ rfl hrange))

theorem targetFrame_of_none {k : Config} {n g e : Nat} (site : Site) (cl : Cluster) (l : Nat)
    (h : copyAt k n g (laneOf e) = none) : targetFrame k site cl l n g e = cl.cur pFrame (2 * l + chOf e) := by
  simp [targetFrame, h]

theorem targetFrame_of_some {k : Config} {n g e q : Nat} (site : Site) (cl : Cluster) (l : Nat)
    (h : copyAt k n g (laneOf e) = some q) :
    targetFrame k site cl l n g e = fadd (g :: e :: site) (cl.cur pFrame (2 * l + chOf e)) (frameSpread k n q) := by
  simp [targetFrame, h]

/-- Settles O44: the formulas by definition, the neutral cases by adding and multiplying zeros. -/
theorem targetsOfACopy : Obligations.TargetsOfACopy := by
  intro k site cl l n g e hk hpos hn he x d
  have hlane : laneOf e < k.v := Nat.div_lt_of_lt_mul he
  refine ⟨?formula, fun hdetune hrange htranspose hbase => ?neutral, targetFrame_of_none site cl l,
    fun q hq => ⟨_, targetFrame_of_some site cl l hq⟩, fun hspread hnum hneg => ?frame⟩
  case formula =>
    have hd : detuneRom k n g (laneOf e) = d := detuneRom_eq k n g (laneOf e)
    rw [← hd]
    exact ⟨_, _, _, _, _, rfl⟩
  case neutral =>
    have hsemitones := semitones_eq_zero site (isFinite_detuneRom k g hpos hn hlane) hdetune hrange htranspose
    rw [targetPinc, hsemitones, ratio_zero]
    exact fmul_one _ hbase
  case frame =>
    cases hcopy : copyAt k n g (laneOf e) with
    | none => exact targetFrame_of_none site cl l hcopy
    | some q =>
      have hdefault : frameSpread k n q = F32.zero := by simp [frameSpread, hspread]
      rw [targetFrame_of_some site cl l hcopy, hdefault]
      exact fadd_zero _ hnum hneg

end Sys2Proof.Machine
end

section
/-! SUPPORT. `UV.CONFIG` (`43_unison_voice.md` R209): what it makes of one element of a group, and its draws in
ascending order of group and element. -/

namespace Sys2Proof.Machine

/-! ### One element of a group -/

/-- The increment cell of an element that stays on: snapped in the instant form, retargeted in the smoothed one. -/
def retargetedPinc (ramp : Option F32) (x : LogCell) (target : F32) : LogCell :=
  match ramp with
  | none => ⟨target, F32.one⟩
  | some t => logSetCell x target t

/-- The frame cell of an element that stays on. -/
def retargetedFrame (s0 s1 : Site) (ramp : Option F32) (x : LinCell) (target : F32) : LinCell :=
  match ramp with
  | none => ⟨target, F32.zero⟩
  | some t => ⟨x.cur, fmul s0 (fsub s1 target x.cur) t⟩

theorem splat_lane (f : Nat → F32) (l e : Nat) : splat (f (2 * l)) (f (2 * l + 1)) e = f (2 * l + e % 2) := by
  unfold splat chOf
  rcases Nat.mod_two_eq_zero_or_one e with h | h <;> simp [h]

section
variable (k : Config) (site : Site) (cl : Cluster) (l n : Nat) (ramp : Option F32) (g : Nat) (o : Osc) (draws : Nat)

theorem configGroup_draws : (configGroup k site cl l n ramp g o draws).2
    = draws + risingBefore o (packMask k n g) o.phase.length := by
  cases ramp <;> exact oscRemask_draws _ _ _ _

theorem configGroup_omask : (configGroup k site cl l n ramp g o draws).1.omask = packMask k n g := by
  cases ramp <;> rfl

theorem configGroup_phase_getElem? (e : Nat) :
    (configGroup k site cl l n ramp g o draws).1.phase[e]? = (o.phase[e]?).map fun p =>
      if rising o (packMask k n g) e then
        start (cl.cur 4 (2 * l + e % 2)) (Config.draw32 (draws + risingBefore o (packMask k n g) e))
      else p := by
  rw [← splat_lane (cl.cur 4)]
  cases ramp <;> exact oscRemask_phase_getElem? _ _ _ _ _

/-- The smoothers of a rising element are snapped first, and the retargeting then passes over it. -/
theorem configGroup_pinc_getElem? (e : Nat) :
    (configGroup k site cl l n ramp g o draws).1.pinc[e]? = (o.pinc[e]?).map fun x =>
      if rising o (packMask k n g) e then ⟨targetPinc k (0 :: site) cl l n g e, F32.one⟩
      else if sel (packMask k n g) e then retargetedPinc ramp x (targetPinc k (0 :: site) cl l n g e)
      else x := by
  cases ramp with
  | none =>
    refine (logSnap_getElem? _ _ _ _).trans (congrArg₂ _ (funext fun x => ?_) rfl)
    cases hsel : sel (packMask k n g) e <;> simp [rising, hsel, retargetedPinc]
  | some t =>
    refine (logSet_getElem? _ _ _ _ _).trans ?_
    rw [oscSetInst, logSnap_getElem?, Option.map_map]
    refine congrArg₂ _ (funext fun x => ?_) rfl
    cases rising o (packMask k n g) e with
    | true => simp
    | false => simp [retargetedPinc]

theorem configGroup_frame_getElem? (e : Nat) :
    (configGroup k site cl l n ramp g o draws).1.frame[e]? = (o.frame[e]?).map fun x =>
      if rising o (packMask k n g) e then ⟨targetFrame k (1 :: site) cl l n g e, F32.zero⟩
      else if sel (packMask k n g) e then
        retargetedFrame (0 :: e :: g :: 2 :: site) (1 :: e :: g :: 2 :: site) ramp x
          (targetFrame k (1 :: site) cl l n g e)
      else x := by
  cases ramp with
  | none =>
    refine (linSnap_getElem? _ _ _ _).trans (congrArg₂ _ (funext fun x => ?_) rfl)
    cases hsel : sel (packMask k n g) e <;> simp [rising, hsel, retargetedFrame]
  | some t =>
    refine (linSet_getElem? _ _ _ _ _ _).trans ?_
    rw [oscSetInst, linSnap_getElem?, Option.map_map]
    refine congrArg₂ _ (funext fun x => ?_) rfl
    cases rising o (packMask k n g) e with
    | true => simp
    | false => simp [retargetedFrame]

variable {e : Nat} {ph : Word} {pc : LogCell} {fc : LinCell} (hph : o.phase[e]? = some ph)
  (hpc : o.pinc[e]? = some pc) (hfc : o.frame[e]? = some fc)
include hph hpc hfc

/-- An element that is off keeps everything. -/
theorem configGroup_off (hoff : sel (packMask k n g) e = false) :
    (configGroup k site cl l n ramp g o draws).1.phase[e]? = some ph
    ∧ (configGroup k site cl l n ramp g o draws).1.pinc[e]? = some pc
    ∧ (configGroup k site cl l n ramp g o draws).1.frame[e]? = some fc := by
  simp [configGroup_phase_getElem?, configGroup_pinc_getElem?, configGroup_frame_getElem?, rising, hoff, hph, hpc, hfc]

/-- An element that turns on starts from its own draw, with its smoothers at the targets. -/
theorem configGroup_turnsOn (hon : sel (packMask k n g) e = true) (hwas : sel o.omask e = false) :
    (configGroup k site cl l n ramp g o draws).1.phase[e]? = some (start (cl.cur 4 (2 * l + e % 2))
      (Config.draw32 (draws + risingBefore o (packMask k n g) e)))
    ∧ (configGroup k site cl l n ramp g o draws).1.pinc[e]? = some ⟨targetPinc k (0 :: site) cl l n g e, F32.one⟩
    ∧ (configGroup k site cl l n ramp g o draws).1.frame[e]? = some ⟨targetFrame k (1 :: site) cl l n g e, 0⟩ := by
  simp [configGroup_phase_getElem?, configGroup_pinc_getElem?, configGroup_frame_getElem?, rising, hon, hwas, hph, hpc,
    hfc]

/-- An element that stays on keeps its phase and is snapped or retargeted. -/
theorem configGroup_staysOn (hon : sel (packMask k n g) e = true) (hwas : sel o.omask e = true) :
    (configGroup k site cl l n ramp g o draws).1.phase[e]? = some ph
    ∧ (configGroup k site cl l n ramp g o draws).1.pinc[e]?
        = some (retargetedPinc ramp pc (targetPinc k (0 :: site) cl l n g e))
    ∧ (configGroup k site cl l n ramp g o draws).1.frame[e]? = some (retargetedFrame (0 :: e :: g :: 2 :: site)
        (1 :: e :: g :: 2 :: site) ramp fc (targetFrame k (1 :: site) cl l n g e)) := by
  simp [configGroup_phase_getElem?, configGroup_pinc_getElem?, configGroup_frame_getElem?, rising, hon, hwas, hph, hpc,
    hfc]

end

/-! ### The draws of a voice -/

/-- A sum over the first places of a list, by position. -/
theorem sum_mapIdx_take {α : Type} (f : Nat → α → Nat) (d : α) {xs : List α} {g : Nat} (hg : g ≤ xs.length) :
    ((xs.take g).mapIdx f).sum = ((List.range g).map fun j => f j (xs.getD j d)).sum := by
  congr 1
  refine List.ext_getElem (by simpa using hg) fun j hj _ => ?_
  have hlen : j < xs.length := by simp at hj; omega
  simp [hlen]

/-- The count of the statement by the rising elements of each group. -/
theorem turnsBefore_eq (k : Config) (n : Nat) (uv : Voice) (g e : Nat) : turnsBefore k n uv g e =
    ((List.range g).map fun j => risingBefore (uv.osc.getD j default) (packMask k n j)
      (uv.osc.getD j default).phase.length).sum + risingBefore (uv.osc.getD g default) (packMask k n g) e := rfl

theorem turnsBefore_of_getElem? (k : Config) (n : Nat) {uv : Voice} {g : Nat} {o : Osc} (ho : uv.osc[g]? = some o)
    (e : Nat) : turnsBefore k n uv g e = turnsBefore k n uv g 0 + risingBefore o (packMask k n g) e := by
  have hget : uv.osc.getD g default = o := by simp [List.getD, ho]
  rw [turnsBefore_eq, turnsBefore_eq, hget]
  rfl

theorem mapAcc_configGroup_draws (k : Config) (site : Site) (cl : Cluster) (l n : Nat) (ramp : Option F32) (uv : Voice)
    (draws : Nat) {g : Nat} (hg : g ≤ uv.osc.length) :
    (mapAcc (configGroup k site cl l n ramp) 0 (uv.osc.take g) draws).2 = draws + turnsBefore k n uv g 0 := by
  rw [mapAcc_count _ _ (configGroup_draws k site cl l n ramp), turnsBefore_eq,
    ← sum_mapIdx_take (fun j o => risingBefore o (packMask k n j) o.phase.length) default hg]
  simp only [Nat.zero_add]
  rfl

theorem uvConfig_osc_getElem? (k : Config) (site : Site) (cl : Cluster) (l : Nat) (ramp : Option F32) {uv : Voice}
    (draws : Nat) {g : Nat} {o : Osc} (ho : uv.osc[g]? = some o) :
    (uvConfig k site cl l ramp uv draws).1.osc[g]? = some (configGroup k site cl l (unisonCount k (cl.cur 8 (2 * l)))
      ramp g o (draws + turnsBefore k (unisonCount k (cl.cur 8 (2 * l))) uv g 0)).1 := by
  have hg := (List.getElem?_eq_some_iff.1 ho).1
  refine (mapAcc_getElem? _ _ _ _ _).trans ?_
  rw [ho, Option.map_some, mapAcc_configGroup_draws _ _ _ _ _ _ _ _ hg.le, Nat.zero_add]

theorem uvConfig_draws (k : Config) (site : Site) (cl : Cluster) (l : Nat) (ramp : Option F32) (uv : Voice)
    (draws : Nat) : (uvConfig k site cl l ramp uv draws).2
      = draws + turnsBefore k (unisonCount k (cl.cur 8 (2 * l))) uv uv.osc.length 0 := by
  have hdraws := mapAcc_configGroup_draws k site cl l (unisonCount k (cl.cur 8 (2 * l))) ramp uv draws le_rfl
  rwa [List.take_length] at hdraws

/-- Settles O45: an element is off, turns on or stays on, and each of its cells follows by its law. -/
theorem unisonVoiceIsConfigured : Obligations.UnisonVoiceIsConfigured := by
  intro k site cl l ramp uv draws n p
  refine ⟨rfl, rfl, rfl, mapAcc_length _ _ _ _, uvConfig_draws k site cl l ramp uv draws, 0 :: site, 1 :: site, ?_⟩
  intro g o ho tp tf
  refine ⟨_, uvConfig_osc_getElem? k site cl l ramp draws ho, configGroup_omask .., ?_⟩
  intro e ph pc fc hph hpc hfc
  refine ⟨configGroup_off _ _ _ _ _ _ _ _ _ hph hpc hfc, fun hon hwas => ?turnsOn, fun hon hwas => ?staysOn⟩
  case turnsOn =>
    rw [turnsBefore_of_getElem? k n ho e, ← Nat.add_assoc]
    exact configGroup_turnsOn _ _ _ _ _ _ _ _ _ hph hpc hfc hon hwas
  case staysOn =>
    obtain ⟨hphase, hpinc, hframe⟩ := configGroup_staysOn k site cl l n ramp g o _ hph hpc hfc hon hwas
    refine ⟨hphase, ?_, fun t ht => ?_⟩
    · rintro rfl
      exact ⟨hpinc, hframe⟩
    · subst ht
      exact ⟨hpinc, _, _, hframe⟩

end Sys2Proof.Machine
end

section
/-! SUPPORT. `UV.PROCESS` and `FOLD` (`43_unison_voice.md` R212, R213): the accumulator after each group, the default
order as a loop over the lanes, and a build's own order as a tree that reads every lane once. -/

namespace Sys2Proof.Machine

/-! ### The groups -/

/-- One visit of `UV.PROCESS`: a group in use steps and adds its output, any other stays. -/
def processGroup (k : Config) (site : Site) (bank : BankSlot) (nOsc g : Nat) (o : Osc) (acc : List F32) :
    Osc × List F32 :=
  if g < nOsc then
    ((oscStep k (g :: 0 :: site) bank o).1, addVec (g :: 1 :: site) acc (oscStep k (g :: 0 :: site) bank o).2)
  else (o, acc)

/-- The accumulator after a number of groups of a voice. -/
def accAfter (k : Config) (site : Site) (bank : BankSlot) (uv : Voice) (g : Nat) : List F32 :=
  (mapAcc (processGroup k site bank uv.nOsc) 0 (uv.osc.take g) (List.replicate k.e F32.zero)).2

theorem uvProcess_eq (k : Config) (site : Site) (bank : BankSlot) (uv : Voice) : uvProcess k site bank uv =
    ({ uv with osc := (mapAcc (processGroup k site bank uv.nOsc) 0 uv.osc (List.replicate k.e F32.zero)).1 },
      fold k (2 :: site) (accAfter k site bank uv uv.osc.length)) := by
  rw [accAfter, List.take_length]
  rfl

theorem processGroup_osc (k : Config) (site : Site) (bank : BankSlot) (nOsc g : Nat) (o : Osc) (acc : List F32) :
    (processGroup k site bank nOsc g o acc).1 = if g < nOsc then (oscStep k (g :: 0 :: site) bank o).1 else o := by
  unfold processGroup
  split <;> rfl

theorem processGroup_acc (k : Config) (site : Site) (bank : BankSlot) (nOsc g : Nat) (o : Osc) (acc : List F32) :
    (processGroup k site bank nOsc g o acc).2
      = if g < nOsc then addVec (g :: 1 :: site) acc (oscStep k (g :: 0 :: site) bank o).2 else acc := by
  unfold processGroup
  split <;> rfl

theorem uvProcess_osc_getElem? (k : Config) (site : Site) (bank : BankSlot) {uv : Voice} {g : Nat} {o : Osc}
    (ho : uv.osc[g]? = some o) : (uvProcess k site bank uv).1.osc[g]?
      = some (if g < uv.nOsc then (oscStep k (g :: 0 :: site) bank o).1 else o) := by
  rw [uvProcess_eq]
  dsimp only
  rw [mapAcc_getElem?, ho, Option.map_some, processGroup_osc, Nat.zero_add]

/-! ### The accumulator -/

/-- What the last element of a visit makes of the accumulator. -/
theorem mapAcc_concat_acc {α σ : Type} (f : Nat → α → σ → α × σ) (i : Nat) (xs : List α) (x : α) (acc : σ) :
    (mapAcc f i (xs ++ [x]) acc).2 = (f (i + xs.length) x (mapAcc f i xs acc).2).2 := by
  induction xs generalizing i acc with
  | nil => rfl
  | cons y ys ih => simp [mapAcc, ih, Nat.add_right_comm, Nat.add_assoc]

@[simp] theorem addVec_length (site : Site) (acc v : List F32) : (addVec site acc v).length = acc.length := by
  simp [addVec]

theorem addVec_getD (site : Site) {acc : List F32} (v : List F32) {e : Nat} (he : e < acc.length) :
    (addVec site acc v).getD e 0 = fadd (e :: site) (acc.getD e 0) (v.getD e 0) := by
  simp [addVec, he]

theorem accAfter_succ (k : Config) (site : Site) (bank : BankSlot) {uv : Voice} {g : Nat} (hg : g < uv.osc.length) :
    accAfter k site bank uv (g + 1) = if g < uv.nOsc then addVec (g :: 1 :: site) (accAfter k site bank uv g)
      (oscStep k (g :: 0 :: site) bank (uv.osc.getD g default)).2 else accAfter k site bank uv g := by
  have hget : uv.osc.getD g default = uv.osc[g] := by simp [hg]
  rw [accAfter, List.take_succ_eq_append_getElem hg, mapAcc_concat_acc, processGroup_acc, List.length_take_of_le hg.le,
    Nat.zero_add, hget]
  rfl

/-- Element e of the outputs of the first groups of a voice, added in ascending order. -/
def groupSum (k : Config) (site : Site) (bank : BankSlot) (uv : Voice) (count e : Nat) : F32 :=
  (List.range count).foldl (fun a g =>
    fadd (e :: g :: 1 :: site) a ((oscStep k (g :: 0 :: site) bank (uv.osc.getD g default)).2.getD e 0)) 0

theorem groupSum_succ (k : Config) (site : Site) (bank : BankSlot) (uv : Voice) (count e : Nat) :
    groupSum k site bank uv (count + 1) e = fadd (e :: count :: 1 :: site) (groupSum k site bank uv count e)
      ((oscStep k (count :: 0 :: site) bank (uv.osc.getD count default)).2.getD e 0) := by
  rw [groupSum, List.range_succ, List.foldl_append]
  rfl

theorem accAfter_length (k : Config) (site : Site) (bank : BankSlot) {uv : Voice} {g : Nat} (hg : g ≤ uv.osc.length) :
    (accAfter k site bank uv g).length = k.e := by
  induction g with
  | zero => simp [accAfter, mapAcc]
  | succ g ih =>
    rw [accAfter_succ k site bank hg]
    split <;> simp [ih (Nat.le_of_lt hg)]

/-- Groups from `n_osc` on add nothing. -/
theorem accAfter_getD (k : Config) (site : Site) (bank : BankSlot) {uv : Voice} {g e : Nat} (hg : g ≤ uv.osc.length)
    (he : e < k.e) : (accAfter k site bank uv g).getD e 0 = groupSum k site bank uv (min g uv.nOsc) e := by
  induction g with
  | zero => simp [accAfter, mapAcc, groupSum, he]
  | succ g ih =>
    rw [accAfter_succ k site bank hg]
    split
    next huse =>
      have hlen := accAfter_length k site bank (Nat.le_of_lt hg)
      rw [addVec_getD _ _ (hlen.symm ▸ he), ih (Nat.le_of_lt hg), Nat.min_eq_left huse.le, Nat.min_eq_left huse,
        groupSum_succ]
    next huse => rw [ih (Nat.le_of_lt hg), Nat.min_eq_right (by omega), Nat.min_eq_right (by omega)]

/-! ### The default order of FOLD -/

/-- The place of the j-th addition of an ascending order that has m of them. -/
def ascendingSite (site : Site) (m j : Nat) : Site := List.replicate (m - 1 - j) 0 ++ site

theorem ascendingSite_cons (site : Site) {m j : Nat} (hj : j < m) :
    ascendingSite (0 :: site) m j = ascendingSite site (m + 1) j := by
  obtain ⟨d, hd⟩ : ∃ d, m = j + 1 + d := ⟨m - (j + 1), by omega⟩
  rw [ascendingSite, ascendingSite, show m - 1 - j = d by omega, show m + 1 - 1 - j = d + 1 by omega,
    List.replicate_succ', List.append_assoc]
  rfl

/-- The ascending order is a loop over the lanes. -/
theorem sumTree_ascending (site : Site) (acc : List F32) (ch m : Nat) :
    sumTree site acc ch (SumTree.ascending m)
      = (List.range m).foldl (fun a j => fadd (ascendingSite site m j) a (acc.getD (2 * (j + 1) + ch) F32.zero))
          (acc.getD ch F32.zero) := by
  induction m generalizing site with
  | zero => simp [SumTree.ascending, sumTree]
  | succ m ih =>
    rw [SumTree.ascending, sumTree, ih, List.range_succ, List.foldl_append]
    have hsites := List.foldl_ext
      (fun a j => fadd (ascendingSite (0 :: site) m j) a (acc.getD (2 * (j + 1) + ch) F32.zero))
      (fun a j => fadd (ascendingSite site (m + 1) j) a (acc.getD (2 * (j + 1) + ch) F32.zero))
      (acc.getD ch F32.zero) fun a j hj => by rw [ascendingSite_cons site (List.mem_range.1 hj)]
    rw [hsites, List.foldl_cons, List.foldl_nil]
    simp [ascendingSite, sumTree]

/-! ### A build's own order -/

theorem foldLegal_of_legal {k : Config} (hk : k.legal = true) : k.foldLegal = true := by
  simp only [Config.legal, Bool.and_eq_true] at hk
  tauto

/-- A legal order reads the lanes in some permutation: it has as many leaves as there are lanes, and each lane is one
of them. -/
theorem leaves_perm_of_covers {v : Nat} {t : SumTree} (h : t.covers v = true) : t.leaves.Perm (List.range v) := by
  simp only [SumTree.covers, Bool.and_eq_true, beq_iff_eq, List.all_eq_true, List.contains_iff_mem] at h
  obtain ⟨hlen, hall⟩ := h
  exact ((List.subperm_of_subset List.nodup_range hall).perm_of_length_le (by simp [hlen])).symm

/-- A sum along a tree reads its leaves only. -/
theorem TreeSum.congr {f g : Nat → F32} {t : SumTree} (h : ∀ j ∈ t.leaves, f j = g j) {x : F32} (hx : TreeSum f t x) :
    TreeSum g t x := by
  induction t generalizing x with
  | leaf j =>
    have hj : f j = g j := h j (List.mem_singleton_self j)
    exact Eq.trans hx hj
  | node a b iha ihb =>
    obtain ⟨y, z, site, hy, hz, hsum⟩ := hx
    exact ⟨y, z, site, iha (fun j hj => h j (List.mem_append_left _ hj)) hy,
      ihb (fun j hj => h j (List.mem_append_right _ hj)) hz, hsum⟩

/-! ### The statement -/

section
variable {k : Config} (site : Site) (bank : BankSlot) {uv : Voice} (hosc : uv.nOsc ≤ uv.osc.length)
include hosc

theorem acc_getD {e : Nat} (he : e < 2 * k.v) :
    (accAfter k site bank uv uv.osc.length).getD e F32.zero = groupSum k site bank uv uv.nOsc e := by
  rw [← Nat.min_eq_right hosc]
  exact accAfter_getD k site bank le_rfl he

theorem channel_default (hk : k.legal = true) {ch : Nat} (hch : ch < 2) :
    sumTree (ch :: 2 :: site) (accAfter k site bank uv uv.osc.length) ch (SumTree.ascending (k.v - 1))
      = (List.range (k.v - 1)).foldl (fun a j => fadd (ascendingSite (ch :: 2 :: site) (k.v - 1) j) a
          (groupSum k site bank uv uv.nOsc (2 * (j + 1) + ch))) (groupSum k site bank uv uv.nOsc ch) := by
  have hv := v_pos_of_legal hk
  rw [sumTree_ascending, acc_getD site bank hosc (by omega)]
  refine List.foldl_ext _ _ _ fun a j hj => ?_
  have hlane := List.mem_range.1 hj
  rw [acc_getD site bank hosc (by omega)]

theorem channel_ownOrder {ch : Nat} (hch : ch < 2) {t : SumTree} (ht : t.leaves.Perm (List.range k.v)) :
    TreeSum (fun j => groupSum k site bank uv uv.nOsc (2 * j + ch)) t
      (sumTree (ch :: 2 :: site) (accAfter k site bank uv uv.osc.length) ch t) := by
  refine TreeSum.congr (fun j hj => ?_) (sumTree_treeSum _ _ ch t)
  have hlane := List.mem_range.1 (ht.mem_iff.1 hj)
  exact acc_getD site bank hosc (by omega)

end

/-- Settles O46: the accumulator group by group, then each channel along its order. -/
theorem voiceSumsItsGroups : Obligations.VoiceSumsItsGroups := by
  intro k site bank uv hk hosc p
  have hfold : p.2 = fold k (2 :: site) (accAfter k site bank uv uv.osc.length) :=
    congrArg Prod.snd (uvProcess_eq k site bank uv)
  refine ⟨rfl, mapAcc_length _ _ _ _, fun g => g :: 0 :: site, fun g e => e :: g :: 1 :: site,
    fun ch => ascendingSite (ch :: 2 :: site) (k.v - 1), fun g o ho => uvProcess_osc_getElem? k site bank ho, ?_⟩
  rw [hfold]
  refine ⟨fun hdefault => ?default, fun left right hown => ?own⟩
  case default =>
    have htrees : foldTrees k = (SumTree.ascending (k.v - 1), SumTree.ascending (k.v - 1)) := by
      simp [foldTrees, hdefault]
    rw [fold, htrees]
    exact ⟨channel_default site bank hosc hk (ch := 0) (by decide),
      channel_default site bank hosc hk (ch := 1) (by decide)⟩
  case own =>
    have htrees : foldTrees k = (left, right) := by simp [foldTrees, hown]
    have hlegal := foldLegal_of_legal hk
    simp only [Config.foldLegal, hown, Bool.and_eq_true] at hlegal
    obtain ⟨hleft, hright⟩ := hlegal
    rw [fold, htrees]
    exact ⟨leaves_perm_of_covers hleft, leaves_perm_of_covers hright,
      channel_ownOrder site bank hosc (ch := 0) (by decide) (leaves_perm_of_covers hleft),
      channel_ownOrder site bank hosc (ch := 1) (by decide) (leaves_perm_of_covers hright)⟩

end Sys2Proof.Machine
end

section
/-! SUPPORT. Commands on a cluster that exists: they pass their checks (`60_exceptions.md` R302) and replace one cluster
of the pool; and the statements on SETP and SETPS (`44_cluster.md` R232, R234). -/

namespace Sys2Proof.Machine

/-! ### The checks of a cluster command -/

theorem checked_of_clusterReady {s : State} {c : Field} (h : clusterReady s c) (rest : List Check)
    (body : Host.Outcome State Fault Refusal) :
    checked s (checkInit s :: checkCluster s c :: rest) body = checked s rest body := by
  obtain ⟨hinit, hc⟩ := h
  rw [checkInit, checkCluster, checked_cons_pass (by simp [hinit]), checked_cons_pass (by simpa using hc)]

theorem checked_of_cluster_lt {s : State} {c : Field} (h : c.toNat < s.numClusters.toNat) (rest : List Check)
    (body : Host.Outcome State Fault Refusal) : checked s (checkCluster s c :: rest) body = checked s rest body := by
  rw [checkCluster, checked_cons_pass (by simpa using h)]

theorem checked_of_lane_lt {s : State} {lane : Field} (h : lane.toNat < s.cfg.v) (rest : List Check)
    (body : Host.Outcome State Fault Refusal) : checked s (checkLane s lane :: rest) body = checked s rest body := by
  rw [checkLane, checked_cons_pass (by simpa using h)]

/-! ### One cluster of the pool replaced -/

section
variable {s t : State} {c : Nat} {cl : Cluster} (ht : t.clusters = s.clusters.set c cl)
include ht

theorem onlyCluster_of_set : onlyCluster s t c := by
  refine ⟨by rw [ht, List.length_set], fun c' hc' => ?_⟩
  rw [ht, List.getElem?_set_ne (Ne.symm hc')]

theorem cluster_of_set (hc : c < s.clusters.length) : t.cluster c = cl := by
  simp [State.cluster, ht, hc]

theorem getElem?_clusters_of_set : t.clusters[c]? = (s.clusters[c]?).map fun _ => cl := by
  rw [ht, List.getElem?_set_self']
  rfl

end

/-- The cluster that a ready command works on stands in the pool of a sound state. -/
theorem lt_clusters_length {s : State} (h : s.Sound) {c : Field} (hc : clusterReady s c) :
    c.toNat < s.clusters.length := by
  rw [h.pool_length]
  exact hc.2

theorem cluster_of_getElem? {s : State} {c : Nat} {cl : Cluster} (h : s.clusters[c]? = some cl) :
    s.cluster c = cl := by
  simp [State.cluster, List.getD, h]

/-! ### One parameter replaced -/

/-- A cluster with one parameter smoother replaced. -/
def Cluster.setParam (cl : Cluster) (p : Nat) (w : Lin) : Cluster := { cl with params := cl.params.set p w }

section
variable {s t : State} {c q : Nat} {w : Lin} (ht : t.clusters = s.clusters.set c ((s.cluster c).setParam q w))
include ht

theorem besideParams_of_setParam : besideParams t c = besideParams s c := by
  rw [besideParams, besideParams, getElem?_clusters_of_set ht]
  cases hcl : s.clusters[c]? with
  | none => rfl
  | some cl =>
    rw [cluster_of_getElem? hcl]
    rfl

/-- Where a parameter is changed cell by cell, so is the parameter file, and no other parameter. -/
theorem paramCell_of_setParam {g : LinCell → LinCell} {e : Nat}
    (hw : w[e]? = (((s.cluster c).param q)[e]?).map g) (p : Nat) :
    paramCell t c p e = (paramCell s c p e).map fun x => if p = q then g x else x := by
  rw [paramCell, paramCell, getElem?_clusters_of_set ht]
  cases hcl : s.clusters[c]? with
  | none => rfl
  | some cl =>
    rw [cluster_of_getElem? hcl] at hw ⊢
    simp only [Option.map_some, Option.bind_some, Cluster.setParam]
    by_cases hp : p = q
    · subst hp
      rw [List.getElem?_set_self']
      cases hparam : cl.params[p]? with
      | none => rfl
      | some x =>
        have hx : cl.param p = x := by simp [Cluster.param, List.getD, hparam]
        simpa [hx] using hw
    · simp [List.getElem?_set_ne (Ne.symm hp), hp]

end

/-! ### SETP and SETPS -/

theorem splat_self (x : F32) (e : Nat) : splat x x e = x := ite_self x

section
variable {s : State} {c : Field} (hready : clusterReady s c) (mask : Mask) {id : Field} (value : F32) (samples : Word)
include hready

theorem exec_setp_unknown (hid : 8 < id.toNat) : exec (.setp c mask id value) s = .next (answeredOk s 0) := by
  rw [exec, execSetp, checked_of_clusterReady hready, checked, if_pos hid]
  rfl

theorem exec_setp (hid : id.toNat ≤ 8) : exec (.setp c mask id value) s = .next { answeredOk s 0 with
    clusters := s.clusters.set c.toNat ((s.cluster c.toNat).setParam id.toNat
      (linSnap ((s.cluster c.toNat).param id.toNat)
        (splat (mapParam s.cfg id.toNat value) (mapParam s.cfg id.toNat value)) (sel mask))) } := by
  rw [exec, execSetp, checked_of_clusterReady hready, checked, if_neg (Nat.not_lt.2 hid)]
  rfl

theorem exec_setps_unknown (hid : 8 < id.toNat) :
    exec (.setps c mask id value samples) s = .next (answeredOk s 0) := by
  rw [exec, execSetps, checked_of_clusterReady hready, checked, if_pos hid]
  rfl

theorem exec_setps (hid : id.toNat ≤ 8) : exec (.setps c mask id value samples) s = .next { answeredOk s 0 with
    clusters := s.clusters.set c.toNat ((s.cluster c.toNat).setParam id.toNat
      (if samples.toNat = 0 then linSnap ((s.cluster c.toNat).param id.toNat)
          (splat (mapParam s.cfg id.toNat value) (mapParam s.cfg id.toNat value)) (sel mask)
        else linSet [s.nanSeed] ((s.cluster c.toNat).param id.toNat)
          (splat (mapParam s.cfg id.toNat value) (mapParam s.cfg id.toNat value)) (recip samples.toNat) (sel mask)))
    nanSeed := s.nanSeed + 1 } := by
  rw [exec, execSetps, checked_of_clusterReady hready, checked, if_neg (Nat.not_lt.2 hid)]
  rfl

end

/-- Settles O48: one parameter smoother is snapped cell by cell. -/
theorem setpSnapsTheSelectedLanes : Obligations.SetpSnapsTheSelectedLanes := by
  intro c mask id value s hready
  refine ⟨exec_setp_unknown hready mask value, fun hid => ⟨_, exec_setp hready mask value hid, rfl,
    onlyCluster_of_set rfl, besideParams_of_setParam rfl, fun p e => ?_⟩⟩
  rw [paramCell_of_setParam rfl (linSnap_getElem? _ _ _ e)]
  refine congrArg₂ _ (funext fun x => ?_) rfl
  by_cases hp : p = id.toNat
  · simp [hp, splat_self, sel, laneOf]
  · simp [hp]

/-- Settles O49: with a count one parameter smoother is retargeted cell by cell, else it is snapped. -/
theorem setpsRampsTheSelectedLanes : Obligations.SetpsRampsTheSelectedLanes := by
  intro c mask id value samples s hready
  refine ⟨exec_setps_unknown hready mask value samples, fun hid => ⟨_, exec_setps hready mask value samples hid, rfl,
    onlyCluster_of_set rfl, besideParams_of_setParam rfl, fun p e => ?_⟩⟩
  have hzero : samples.toNat = 0 ↔ samples = 0 := ⟨fun h => BitVec.eq_of_toNat_eq h, fun h => by rw [h]; rfl⟩
  by_cases hs : samples = 0
  · refine ⟨[], [], ?_⟩
    rw [if_pos (hzero.2 hs), paramCell_of_setParam rfl (linSnap_getElem? _ _ _ e)]
    refine congrArg₂ _ (funext fun x => ?_) rfl
    by_cases hp : p = id.toNat
    · simp [hp, hs, splat_self, sel, laneOf]
    · simp [hp]
  · refine ⟨[0, e, s.nanSeed], [1, e, s.nanSeed], ?_⟩
    rw [if_neg (mt hzero.1 hs), paramCell_of_setParam rfl (linSet_getElem? _ _ _ _ _ e)]
    refine congrArg₂ _ (funext fun x => ?_) rfl
    by_cases hp : p = id.toNat
    · simp only [if_neg hs]
      simp [hp, splat_self, sel, laneOf, recip]
    · simp [hp]

end Sys2Proof.Machine
end

section
/-! SUPPORT. The state of one lane (`10_state.md` R48): what a read of a lane gives after a lane is written, what VOFF
and MOVE leave (`44_cluster.md` R249, R253), and the statements on both commands. -/

namespace Sys2Proof.Machine

/-! ### VOFF -/

/-- `CL.DEACTIVATE` writes no state, so that both ways through VOFF leave the same cluster. -/
theorem voiceOff_eq (cl : Cluster) (l : Nat) : voiceOff cl l = { cl with
    laneActive := setMaskBit cl.laneActive l false, voices := cl.voices.set l (silence (cl.voice l)) } := by
  unfold voiceOff clDeactivate
  exact ite_self _

section
variable {s : State} {c lane : Field} (hready : clusterReady s c) (hlane : lane.toNat < s.cfg.v)
include hready hlane

theorem exec_voff_inactive (hoff : maskBit (s.cluster c.toNat).laneActive lane.toNat = false) :
    exec (.voff c lane) s = .next (answeredOk s 0) := by
  rw [exec, execVoff, checked_of_clusterReady hready, checked_of_lane_lt hlane, checked]
  dsimp only
  rw [if_neg (by simp [hoff])]
  rfl

theorem exec_voff_active (hon : maskBit (s.cluster c.toNat).laneActive lane.toNat = true) :
    exec (.voff c lane) s = .next { answeredOk s 0 with
      clusters := s.clusters.set c.toNat (voiceOff (s.cluster c.toNat) lane.toNat) } := by
  rw [exec, execVoff, checked_of_clusterReady hready, checked_of_lane_lt hlane, checked]
  dsimp only
  rw [if_pos hon]
  rfl

end

/-- Settles O51: the bit and the voice of the lane are replaced, by the laws of masks and lists. -/
theorem voffSilencesTheLane : Obligations.VoffSilencesTheLane := by
  intro c lane s hinv hready hlane l cl
  have hsound := State.inv_iff.1 hinv
  have hpool := lt_clusters_length hsound hready
  have hcl := cluster_sound hsound hready.2
  have hl8 : l < 8 := Nat.lt_of_lt_of_le hlane (v_le_of_legal hsound.legal)
  refine ⟨exec_voff_inactive hready hlane, fun hon => ⟨_, exec_voff_active hready hlane hon, rfl,
    onlyCluster_of_set rfl, ?_⟩⟩
  rw [cluster_of_set rfl hpool, voiceOff_eq]
  refine ⟨rfl, fun j => ?_, fun j hj => List.getElem?_set_ne (Ne.symm hj), ?_⟩
  · dsimp only
    rw [maskBit_setMaskBit _ _ _ _ hl8]
    by_cases hj : j = l
    · simp [hj, l]
    · simp [hj, l, cl]
  · exact List.getElem?_set_self (by rw [hcl.voices_length]; exact hlane)

/-! ### Lanes read after a lane is written -/

/-- Both elements of a lane replaced change the elements of that lane and no other. -/
theorem getElem?_set_lane {α : Type} (xs : List α) (l : Nat) (a b : α) (e : Nat) :
    ((xs.set (2 * l) a).set (2 * l + 1) b)[e]?
      = if e / 2 = l then (xs[e]?).map fun _ => if e % 2 = 0 then a else b else xs[e]? := by
  by_cases hodd : e = 2 * l + 1
  · subst hodd
    rw [List.getElem?_set_self', List.getElem?_set_ne (by omega), if_pos (by omega)]
    simp [Nat.add_mod]
    rfl
  rw [List.getElem?_set_ne (Ne.symm hodd)]
  by_cases heven : e = 2 * l
  · subst heven
    rw [List.getElem?_set_self', if_pos (by omega)]
    simp
    rfl
  · rw [List.getElem?_set_ne (Ne.symm heven), if_neg (by omega)]

theorem getD_set_lane_self {α : Type} {xs : List α} {l : Nat} (hl : 2 * l + 1 < xs.length) (a b d : α) :
    ((xs.set (2 * l) a).set (2 * l + 1) b).getD (2 * l) d = a
    ∧ ((xs.set (2 * l) a).set (2 * l + 1) b).getD (2 * l + 1) d = b := by
  rw [List.getD, List.getD, List.getElem?_set_ne (by omega), List.getElem?_set_self (by omega),
    List.getElem?_set_self (by rw [List.length_set]; omega)]
  exact ⟨rfl, rfl⟩

theorem getD_set_lane_ne {α : Type} (xs : List α) {l e : Nat} (he : e / 2 ≠ l) (a b d : α) :
    ((xs.set (2 * l) a).set (2 * l + 1) b).getD e d = xs.getD e d := by
  rw [List.getD, getElem?_set_lane, if_neg he, List.getD]

theorem linPair_setLinPair_self {w : Lin} {l : Nat} (hl : 2 * l + 1 < w.length) (p : LinCell × LinCell) :
    linPair (setLinPair w l p) l = p := by
  obtain ⟨heven, hodd⟩ := getD_set_lane_self hl p.1 p.2 default
  rw [linPair, setLinPair, heven, hodd]

theorem linPair_setLinPair_ne (w : Lin) {l j : Nat} (hj : j ≠ l) (p : LinCell × LinCell) :
    linPair (setLinPair w l p) j = linPair w j := by
  rw [linPair, setLinPair, getD_set_lane_ne w (by omega), getD_set_lane_ne w (by omega), linPair]

theorem two_mul_lane_lt {k : Config} {l : Nat} (hl : l < k.v) : 2 * l + 1 < k.e := by
  unfold Config.e
  omega

section
variable {k : Config} {dst : Cluster} (hdst : dst.Sound k) {l : Nat} (hl : l < k.v) {x : LaneState}
include hdst hl

theorem putLane_params_self (hx : x.params.length = 9) :
    (putLane dst l x).params.map (fun w => linPair w l) = x.params := by
  refine List.ext_getElem (by simp [putLane, hdst.params_length, hx]) fun p hp hp' => ?_
  have hlt : p < dst.params.length := by rw [hdst.params_length]; omega
  have hlen := hdst.param_length _ (List.getElem_mem hlt)
  simp only [putLane, List.getElem_map, List.getElem_zipWith]
  exact linPair_setLinPair_self (hlen ▸ two_mul_lane_lt hl) _

/-- A lane written is the lane read. -/
theorem getLane_putLane_self (hk : k.legal = true) (hx : x.params.length = 9) : getLane (putLane dst l x) l = x := by
  have hl2 := two_mul_lane_lt hl
  have hl8 : l < 8 := Nat.lt_of_lt_of_le hl (v_le_of_legal hk)
  obtain ⟨heven, hodd⟩ := getD_set_lane_self (hdst.basePinc ▸ hl2) x.base.1 x.base.2 F32.zero
  have hvoice : (dst.voices.set l x.voice).getD l default = x.voice := by
    rw [List.getD, List.getElem?_set_self (by rw [hdst.voices_length]; exact hl)]
    rfl
  have hwn : linPair (setLinPair dst.wn l x.wn) l = x.wn := linPair_setLinPair_self (hdst.wn ▸ hl2) _
  have hwf : linPair (setLinPair dst.wf l x.wf) l = x.wf := linPair_setLinPair_self (hdst.wf ▸ hl2) _
  have hactive : maskBit (setMaskBit dst.laneActive l x.active) l = x.active := by
    rw [maskBit_setMaskBit _ _ _ _ hl8, if_pos rfl]
  rw [getLane, putLane_params_self hdst hl hx]
  simp only [putLane, Cluster.base, Cluster.voice, heven, hodd, hvoice, hwn, hwf, hactive]

/-- Every other lane is as it was. -/
theorem getLane_putLane_ne (hk : k.legal = true) (hx : x.params.length = 9) {j : Nat} (hj : j ≠ l) :
    getLane (putLane dst l x) j = getLane dst j := by
  have hl8 : l < 8 := Nat.lt_of_lt_of_le hl (v_le_of_legal hk)
  have hparams : (putLane dst l x).params.map (fun w => linPair w j) = dst.params.map fun w => linPair w j := by
    refine List.ext_getElem (by simp [putLane, hdst.params_length, hx]) fun p hp hp' => ?_
    simp only [putLane, List.getElem_map, List.getElem_zipWith]
    exact linPair_setLinPair_ne _ hj _
  have hbase := fun e he => getD_set_lane_ne dst.basePinc (l := l) (e := e) he x.base.1 x.base.2 F32.zero
  have hvoice : (dst.voices.set l x.voice).getD j default = dst.voices.getD j default := by
    rw [List.getD, List.getElem?_set_ne (Ne.symm hj), List.getD]
  have hactive : maskBit (setMaskBit dst.laneActive l x.active) j = maskBit dst.laneActive j := by
    rw [maskBit_setMaskBit _ _ _ _ hl8, if_neg hj]
  rw [getLane, getLane, hparams]
  simp only [putLane, Cluster.base, Cluster.voice, hbase (2 * j) (by omega), hbase (2 * j + 1) (by omega), hvoice,
    hactive, linPair_setLinPair_ne _ hj]

end

/-! ### MOVE -/

section
variable {s : State} {c1 l1 c2 l2 : Field} (hready1 : clusterReady s c1) (hready2 : clusterReady s c2)
  (hl1 : l1.toNat < s.cfg.v) (hl2 : l2.toNat < s.cfg.v)
include hready1 hready2 hl1 hl2

theorem exec_move : exec (.move c1 l1 c2 l2) s = if c1 = c2 ∧ l1 = l2 then .next (answeredOk s 0)
    else .next { answeredOk s 0 with
      clusters := s.clusters.set c2.toNat
        (putLane (s.cluster c2.toNat) l2.toNat (getLane (s.cluster c1.toNat) l1.toNat)) } := by
  rw [exec, execMove, checked_of_clusterReady hready1, checked_of_cluster_lt hready2.2, checked_of_lane_lt hl1,
    checked_of_lane_lt hl2, checked]
  rfl

end

/-- Settles O52: the destination is written with the lane read before, by the laws of `getLane` and `putLane`. -/
theorem moveCopiesOneLane : Obligations.MoveCopiesOneLane := by
  intro c1 l1 c2 l2 s hinv hready1 hready2 hl1 hl2
  have hsound := State.inv_iff.1 hinv
  have hpool := lt_clusters_length hsound hready2
  have hsrc := cluster_sound hsound hready1.2
  have hdst := cluster_sound hsound hready2.2
  have hparams : (getLane (s.cluster c1.toNat) l1.toNat).params.length = 9 := by simp [getLane, hsrc.params_length]
  rw [exec_move hready1 hready2 hl1 hl2]
  refine ⟨fun hc hl => if_pos ⟨hc, hl⟩, fun hother => ⟨_, if_neg hother, rfl, onlyCluster_of_set rfl, ?_⟩⟩
  rw [cluster_of_set rfl hpool]
  exact ⟨Cluster.ok_iff.2 (putLane_getLane_sound hsound.legal hsrc hdst hl1 hl2),
    getLane_putLane_self hdst hl2 hsound.legal hparams,
    fun l _ hl => getLane_putLane_ne hdst hl2 hsound.legal hparams hl⟩

end Sys2Proof.Machine
end

section
/-! SUPPORT. The draws of a visit whose elements each take a known number of them, and the statement on RESET
(`44_cluster.md` R257): one draw for each phase, in ascending order of lane, group and element. -/

namespace Sys2Proof.Machine

/-! ### Voices and groups by position -/

theorem voices_getElem? {k : Config} {cl : Cluster} (h : cl.Sound k) {l : Nat} (hl : l < k.v) :
    cl.voices[l]? = some (cl.voice l) := by
  simp [Cluster.voice, h.voices_length, hl]

theorem osc_getElem? {k : Config} {active : Bool} {uv : Voice} (h : uv.Sound k active) {g : Nat} (hg : g < k.k) :
    uv.osc[g]? = some (uv.osc.getD g default) := by
  simp [h.osc_length, hg]

theorem voice_of_getElem? {cl : Cluster} {l : Nat} {uv : Voice} (h : cl.voices[l]? = some uv) : cl.voice l = uv := by
  simp [Cluster.voice, List.getD, h]

/-! ### Visits that count draws -/

section
variable {α : Type} {f : Nat → α → Nat → α × Nat} {xs : List α} {cnt : Nat → Nat}
  (h : ∀ j x n, xs[j]? = some x → (f j x n).2 = n + cnt j) (n : Nat) {j : Nat}
include h

/-- Where each element takes its own number of draws, the first elements take the sum of theirs. -/
theorem mapAcc_take_draws (hj : j ≤ xs.length) :
    (mapAcc f 0 (xs.take j) n).2 = n + ((List.range j).map cnt).sum := by
  induction j with
  | zero => rfl
  | succ j ih =>
    rw [List.take_succ_eq_append_getElem hj, mapAcc_concat_acc, List.length_take_of_le (Nat.le_of_lt hj),
      Nat.zero_add, h _ _ _ (List.getElem?_eq_getElem hj), ih (Nat.le_of_lt hj), List.range_succ, List.map_append,
      List.sum_append]
    simp [Nat.add_assoc]

theorem mapAcc_draws : (mapAcc f 0 xs n).2 = n + ((List.range xs.length).map cnt).sum := by
  rw [← mapAcc_take_draws h n le_rfl, List.take_length]

/-- An element starts after the draws of the elements before it. -/
theorem mapAcc_getElem?_draws {x : α} (hx : xs[j]? = some x) :
    (mapAcc f 0 xs n).1[j]? = some (f j x (n + ((List.range j).map cnt).sum)).1 := by
  have hj := (List.getElem?_eq_some_iff.1 hx).1
  rw [mapAcc_getElem?, hx, Option.map_some, Nat.zero_add, mapAcc_take_draws h n hj.le]

end

/-- A sum that counts c for each place that meets a predicate. -/
theorem sum_map_ite_range (p : Nat → Bool) (c j : Nat) :
    ((List.range j).map fun i => if p i then c else 0).sum = ((List.range j).filter p).length * c := by
  induction j with
  | zero => simp
  | succ j ih =>
    rw [List.range_succ, List.map_append, List.sum_append, ih, List.filter_append, List.length_append, Nat.add_mul]
    cases hp : p j <;> simp [hp]

/-! ### Phases drawn anew -/

/-- Every element takes the next draw, so that element e takes draw number e. -/
theorem oscReseed_phase (o : Osc) (r : Nat → F32) (draws : Nat) :
    (oscReseed o r draws).1.phase = o.phase.mapIdx fun e _ => start (r e) (Config.draw32 (draws + e)) := by
  refine List.ext_getElem? fun e => ?_
  rw [List.getElem?_mapIdx]
  cases he : o.phase[e]? with
  | none =>
    rw [Option.map_none, List.getElem?_eq_none]
    simpa [oscReseed] using he
  | some p =>
    refine (mapAcc_getElem?_draws (cnt := fun _ => 1) (fun _ _ _ _ => rfl) draws he).trans ?_
    simp

theorem oscReseed_draws (o : Osc) (r : Nat → F32) (draws : Nat) :
    (oscReseed o r draws).2 = draws + o.phase.length := by
  refine (mapAcc_draws (xs := o.phase) (cnt := fun _ => 1) (fun _ _ _ _ => rfl) draws).trans ?_
  simp

section
variable {k : Config} {active : Bool} {uv : Voice} (h : uv.Sound k active) (cl : Cluster) (l draws : Nat)
include h

theorem oscReseed_draws_of_sound (r : Nat → F32) :
    ∀ (g : Nat) (o : Osc) (n : Nat), uv.osc[g]? = some o → (oscReseed o r n).2 = n + k.e := fun g o n ho => by
  rw [oscReseed_draws, (h.osc g o ho).1.phase]

theorem reseedVoice_draws : (reseedVoice cl l uv draws).2 = draws + k.k * k.e := by
  refine (mapAcc_draws (cnt := fun _ => k.e) (oscReseed_draws_of_sound h _) draws).trans ?_
  simp [h.osc_length]

/-- Each group follows the groups below it, each with a draw for every element. -/
theorem reseedVoice_osc_getD {g : Nat} (hg : g < k.k) : (reseedVoice cl l uv draws).1.osc.getD g default
    = (oscReseed (uv.osc.getD g default) (splat (cl.cur pRandom (2 * l)) (cl.cur pRandom (2 * l + 1)))
        (draws + g * k.e)).1 := by
  have hvisit := mapAcc_getElem?_draws (cnt := fun _ => k.e) (oscReseed_draws_of_sound h
    (splat (cl.cur pRandom (2 * l)) (cl.cur pRandom (2 * l + 1)))) draws
    (osc_getElem? h hg)
  rw [List.map_const', List.sum_replicate, List.length_range, smul_eq_mul] at hvisit
  rw [reseedVoice, List.getD, hvisit, Option.getD_some]

end

/-! ### RESET -/

/-- One visit of RESET: a selected lane is seeded anew, any other stays. -/
def resetVisit (cl : Cluster) (mask : Mask) (l : Nat) (uv : Voice) (n : Nat) : Voice × Nat :=
  if maskBit mask l then reseedVoice cl l uv n else (uv, n)

theorem exec_reset {s : State} {c : Field} (hready : clusterReady s c) (mask : Mask) :
    exec (.reset c mask) s = .next { answeredOk s 0 with
      clusters := s.clusters.set c.toNat { s.cluster c.toNat with
        voices := (mapAcc (resetVisit (s.cluster c.toNat) mask) 0 (s.cluster c.toNat).voices s.draws).1 }
      draws := (mapAcc (resetVisit (s.cluster c.toNat) mask) 0 (s.cluster c.toNat).voices s.draws).2 } := by
  rw [exec, execReset, checked_of_clusterReady hready, checked]
  rfl

section
variable {k : Config} {cl : Cluster} (h : cl.Sound k) (mask : Mask) (draws : Nat)
include h

theorem resetVisit_draws : ∀ l uv n, cl.voices[l]? = some uv →
    (resetVisit cl mask l uv n).2 = n + if maskBit mask l then k.k * k.e else 0 := fun l uv n huv => by
  unfold resetVisit
  split
  · exact reseedVoice_draws (h.voice l uv huv) cl l n
  · rfl

/-- A selected lane follows the selected lanes below it, each with a draw for every phase. -/
theorem reset_voice_getElem? {l : Nat} (hl : l < k.v) :
    (mapAcc (resetVisit cl mask) 0 cl.voices draws).1[l]? = some (resetVisit cl mask l (cl.voice l)
      (draws + ((List.range l).filter fun j => maskBit mask j).length * (k.k * k.e))).1 := by
  rw [mapAcc_getElem?_draws (resetVisit_draws h mask) draws (voices_getElem? h hl), sum_map_ite_range]

theorem reset_draws : (mapAcc (resetVisit cl mask) 0 cl.voices draws).2
    = draws + ((List.range k.v).filter fun j => maskBit mask j).length * (k.k * k.e) := by
  rw [mapAcc_draws (resetVisit_draws h mask) draws, sum_map_ite_range, h.voices_length]

end

/-- Settles O53: the draws are counted along the visits of lanes, groups and elements. -/
theorem resetReseedsTheSelectedLanes : Obligations.ResetReseedsTheSelectedLanes := by
  intro c mask s hinv hready k cl lanesBefore
  have hsound := State.inv_iff.1 hinv
  have hcl : cl.Sound k := cluster_sound hsound hready.2
  refine ⟨_, exec_reset hready mask, ?_, onlyCluster_of_set rfl, ?_⟩
  · rw [reset_draws hcl]
  rw [cluster_of_set rfl (lt_clusters_length hsound hready)]
  refine ⟨rfl, (mapAcc_length _ _ _ _).trans hcl.voices_length, fun l hl => ?_⟩
  rw [voice_of_getElem? (reset_voice_getElem? hcl mask s.draws hl), resetVisit]
  refine ⟨fun hoff => by rw [if_neg (by simp [hoff])], fun hon => ?_⟩
  rw [if_pos hon]
  have huv := cluster_voice_sound hcl hl
  refine ⟨rfl, (mapAcc_length _ _ _ _).trans huv.osc_length, fun g hg => ?_⟩
  rw [reseedVoice_osc_getD huv cl l _ hg]
  have hlen := (huv.osc g _ (osc_getElem? huv hg)).1.phase
  intro o o'
  refine ⟨rfl, by rw [oscReseed_phase, List.length_mapIdx, hlen], fun e he => ?_⟩
  simp only [o']
  rw [oscReseed_phase, List.getElem?_mapIdx, List.getElem?_eq_getElem (by omega), Option.map_some,
    splat_lane (cl.cur pRandom)]
  congr 3
  ring

end Sys2Proof.Machine
end

section
/-! SUPPORT. A voice configured from a clear mask (`43_unison_voice.md` R205, R209): copy q starts from the draws 2q
and 2q + 1; what VON leaves (`44_cluster.md` R245), and the statement on VON. -/

namespace Sys2Proof.Machine

/-! ### The elements of a group that hold a copy -/

/-- The first lane of group g that holds a copy. -/
def packStart (k : Config) (n g : Nat) : Nat :=
  if g + 1 < packGroups k n then 0 else if g + 1 = packGroups k n then k.v - packTail k n else k.v

section
variable {k : Config} {n g : Nat}

theorem packStart_full (hg : g + 1 < packGroups k n) : packStart k n g = 0 := if_pos hg

theorem packStart_last (hg : g + 1 = packGroups k n) : packStart k n g = k.v - packTail k n := by
  rw [packStart, if_neg (by omega), if_pos hg]

theorem packStart_unused (hg : packGroups k n < g + 1) : packStart k n g = k.v := by
  rw [packStart, if_neg (by omega), if_neg (by omega)]

/-- The elements of a group that are on are a run up to the last one. -/
theorem sel_packMask (hk : k.legal = true) (e : Nat) :
    sel (packMask k n g) e = decide (2 * packStart k n g ≤ e ∧ e < k.e) := by
  rw [sel, maskBit_packMask hk, laneOf, Bool.eq_iff_iff]
  simp only [Bool.and_eq_true, Bool.or_eq_true, decide_eq_true_eq]
  unfold Config.e
  rcases Nat.lt_trichotomy (g + 1) (packGroups k n) with hg | hg | hg
  · rw [packStart_full hg]
    omega
  · rw [packStart_last hg]
    omega
  · rw [packStart_unused hg]
    omega

/-- An element that is on belongs to the copy of its lane. -/
theorem copyAt_of_copyOn (hk : k.legal = true) {e : Nat} (hon : copyOn k n g e = true) :
    g + 1 ≤ packGroups k n ∧ 2 * packStart k n g ≤ e
    ∧ copyAt k n g (e / 2) = some (g * k.v + (e / 2 - packStart k n g)) := by
  rw [copyOn, sel_packMask hk, decide_eq_true_eq, Config.e] at hon
  obtain ⟨hstart, he⟩ := hon
  rcases Nat.lt_trichotomy (g + 1) (packGroups k n) with hg | hg | hg
  · exact ⟨hg.le, hstart, by rw [copyAt, if_pos hg, packStart_full hg, Nat.sub_zero]⟩
  · rw [packStart_last hg] at hstart ⊢
    exact ⟨hg.le, hstart, by rw [copyAt, if_neg (by omega), if_pos (by omega)]⟩
  · rw [packStart_unused hg] at hstart
    omega

end

/-! ### The draws from a clear mask -/

theorem sel_zero (e : Nat) : sel 0 e = false := BitVec.getLsbD_zero

theorem length_filter_range_run (a b e : Nat) :
    ((List.range e).filter fun i => decide (a ≤ i ∧ i < b)).length = min e b - a := by
  induction e with
  | zero => simp
  | succ e ih =>
    rw [List.range_succ, List.filter_append, List.length_append, ih, List.filter_singleton]
    by_cases h : a ≤ e ∧ e < b
    · simp [h]
      omega
    · simp [h]
      omega

section
variable {k : Config} (hk : k.legal = true) {n g e : Nat}
include hk

/-- From a clear mask the elements that are on are those that rise. -/
theorem risingBefore_of_clear {o : Osc} (ho : o.omask = 0) (he : e ≤ k.e) :
    risingBefore o (packMask k n g) e = e - 2 * packStart k n g := by
  have hclear : ∀ i, rising o (packMask k n g) i = decide (2 * packStart k n g ≤ i ∧ i < k.e) := fun i => by
    rw [rising, ho, sel_zero, sel_packMask hk, Bool.not_false, Bool.and_true]
  rw [risingBefore, funext hclear, length_filter_range_run, Nat.min_eq_left he]

/-- The groups below a group hold the copies below its first one. -/
theorem sum_copies_below (hn : 1 ≤ n) (g : Nat) :
    ((List.range g).map fun j => k.e - 2 * packStart k n j).sum = 2 * min (g * k.v) n := by
  have hv := v_pos_of_legal hk
  obtain ⟨hpos, hlt, hle⟩ := packGroups_bounds hv hn
  obtain ⟨-, htail, hcount⟩ := packTail_bounds hv hn
  induction g with
  | zero => simp
  | succ g ih =>
    rw [List.range_succ, List.map_append, List.sum_append, ih, List.map_singleton, List.sum_singleton, Config.e]
    have hsucc : (g + 1) * k.v = g * k.v + k.v := Nat.succ_mul g k.v
    rcases Nat.lt_trichotomy (g + 1) (packGroups k n) with hg | hg | hg
    · rw [packStart_full hg]
      have hfull : (g + 1) * k.v ≤ (packGroups k n - 1) * k.v := Nat.mul_le_mul_right _ (by omega)
      omega
    · rw [packStart_last hg]
      rw [← hg, Nat.add_sub_cancel] at hcount
      omega
    · rw [packStart_unused hg]
      have hall : packGroups k n * k.v ≤ g * k.v := Nat.mul_le_mul_right _ (by omega)
      omega

section
variable {uv : Voice} (huv : uv.Sound k false) (hn : 1 ≤ n)
include huv hn

theorem turnsBefore_of_silent (hg : g ≤ k.k) : turnsBefore k n uv g 0 = 2 * min (g * k.v) n := by
  rw [turnsBefore_eq, ← sum_copies_below hk hn, show risingBefore _ _ 0 = 0 from rfl, Nat.add_zero]
  congr 1
  refine List.map_congr_left fun j hj => ?_
  have hjk : j < k.k := Nat.lt_of_lt_of_le (List.mem_range.1 hj) hg
  obtain ⟨hosc, hmask⟩ := huv.osc j _ (osc_getElem? huv hjk)
  rw [hosc.phase, risingBefore_of_clear hk hmask le_rfl]

/-- Configuring a silent voice takes two draws for each copy. -/
theorem turnsBefore_of_silent_all (hmax : n ≤ k.maxUnison) : turnsBefore k n uv k.k 0 = 2 * n := by
  have hv := v_pos_of_legal hk
  obtain ⟨-, -, hle⟩ := packGroups_bounds hv hn
  have hall : packGroups k n * k.v ≤ k.k * k.v := Nat.mul_le_mul_right _ (packGroups_le hmax)
  rw [turnsBefore_of_silent hk huv hn le_rfl]
  omega

/-- Copy q of a silent voice starts from draws 2q and 2q + 1. -/
theorem turnsBefore_of_copy (hg : g < k.k) (he : e < k.e) (hon : copyOn k n g e = true) :
    ∃ q, copyAt k n g (e / 2) = some q ∧ turnsBefore k n uv g e = 2 * q + e % 2 := by
  have hv := v_pos_of_legal hk
  obtain ⟨-, hlt, -⟩ := packGroups_bounds hv hn
  obtain ⟨hgroup, hstart, hcopy⟩ := copyAt_of_copyOn hk hon
  obtain ⟨-, hmask⟩ := huv.osc g _ (osc_getElem? huv hg)
  have hbelow : g * k.v ≤ (packGroups k n - 1) * k.v := Nat.mul_le_mul_right _ (by omega)
  refine ⟨_, hcopy, ?_⟩
  rw [turnsBefore_of_getElem? k n (osc_getElem? huv hg), turnsBefore_of_silent hk huv hn hg.le,
    risingBefore_of_clear hk hmask he.le]
  omega

end

end

/-! ### VON -/

/-- The cluster of VON before its voice is configured: the weights snapped if no lane sounds, the note's increment in
both elements of the lane (`44_cluster.md` R243, R245). -/
def noteCluster (k : Config) (site : Site) (sampleRate : F32) (cl : Cluster) (l note : Nat) : Cluster :=
  let cl1 := if cl.laneActive = 0 then clActivate k (0 :: site) cl else cl
  let b := noteInc k (1 :: site) sampleRate note
  { cl1 with basePinc := (cl1.basePinc.set (2 * l) b).set (2 * l + 1) b }

section
variable (k : Config) (site : Site) (sampleRate : F32) (cl : Cluster) (l note draws : Nat)

theorem noteCluster_params : (noteCluster k site sampleRate cl l note).params = cl.params := by
  unfold noteCluster
  split <;> rfl

theorem noteCluster_cur (p x : Nat) : (noteCluster k site sampleRate cl l note).cur p x = cl.cur p x := by
  rw [Cluster.cur, Cluster.param, noteCluster_params]
  rfl

theorem noteCluster_laneActive : (noteCluster k site sampleRate cl l note).laneActive = cl.laneActive := by
  unfold noteCluster
  split <;> rfl

theorem noteCluster_voices : (noteCluster k site sampleRate cl l note).voices = cl.voices := by
  unfold noteCluster
  split <;> rfl

theorem noteCluster_basePinc : (noteCluster k site sampleRate cl l note).basePinc
    = (cl.basePinc.set (2 * l) (noteInc k (1 :: site) sampleRate note)).set (2 * l + 1)
        (noteInc k (1 :: site) sampleRate note) := by
  unfold noteCluster
  split <;> rfl

theorem noteCluster_weights_kept (h : cl.laneActive ≠ 0) : (noteCluster k site sampleRate cl l note).wn = cl.wn
    ∧ (noteCluster k site sampleRate cl l note).wf = cl.wf := by
  unfold noteCluster
  rw [if_neg h]
  exact ⟨rfl, rfl⟩

theorem noteCluster_weights_snapped (h : cl.laneActive = 0) :
    (noteCluster k site sampleRate cl l note).wn = linSnap cl.wn (weightNormal k (0 :: site) cl) (fun _ => true)
    ∧ (noteCluster k site sampleRate cl l note).wf
        = linSnap cl.wf (weightFlipped k (0 :: site) cl) (fun _ => true) := by
  unfold noteCluster
  rw [if_pos h]
  exact ⟨rfl, rfl⟩

/-- The voice of VON, configured from a clear mask, and the draws taken so far. -/
def noteVoice : Voice × Nat :=
  uvConfig k (2 :: site) (noteCluster k site sampleRate cl l note) l none (silence (cl.voice l)) draws

/-- The packing of the voice of VON is that of its count. -/
theorem noteVoice_packing :
    (noteVoice k site sampleRate cl l note draws).1.nUni = unisonCount k (cl.cur 8 (2 * l))
    ∧ (noteVoice k site sampleRate cl l note draws).1.nOsc = packGroups k (unisonCount k (cl.cur 8 (2 * l)))
    ∧ (noteVoice k site sampleRate cl l note draws).1.tailMask = packMask k (unisonCount k (cl.cur 8 (2 * l)))
        (packGroups k (unisonCount k (cl.cur 8 (2 * l))) - 1) := by
  rw [noteVoice, uvConfig, noteCluster_cur]
  exact ⟨rfl, rfl, rfl⟩

theorem voiceOn_eq : voiceOn k site sampleRate cl l note draws =
    ({ noteCluster k site sampleRate cl l note with
        voices := cl.voices.set l (noteVoice k site sampleRate cl l note draws).1
        laneActive := setMaskBit cl.laneActive l true },
      (noteVoice k site sampleRate cl l note draws).2) := by
  have hvoice : (noteCluster k site sampleRate cl l note).voice l = cl.voice l := by
    rw [Cluster.voice, noteCluster_voices]
    rfl
  rw [noteVoice, ← hvoice, ← noteCluster_voices k site sampleRate cl l note,
    ← noteCluster_laneActive k site sampleRate cl l note]
  rfl

end

theorem exec_von {s : State} {c lane : Field} (hready : clusterReady s c) (hlane : lane.toNat < s.cfg.v)
    (note : BitVec 7) : exec (.von c lane note) s = .next { answeredOk s 0 with
      clusters := s.clusters.set c.toNat
        (voiceOn s.cfg [s.nanSeed] s.sampleRate (s.cluster c.toNat) lane.toNat note.toNat s.draws).1
      draws := (voiceOn s.cfg [s.nanSeed] s.sampleRate (s.cluster c.toNat) lane.toNat note.toNat s.draws).2
      nanSeed := s.nanSeed + 1 } := by
  rw [exec, execVon, checked_of_clusterReady hready, checked_of_lane_lt hlane, checked]
  rfl

section
variable {k : Config} (hk : k.legal = true) {cl : Cluster} (h : cl.Sound k) (site : Site) (sampleRate : F32) {l : Nat}
  (hl : l < k.v) (note draws : Nat)
include hk h hl

theorem noteVoice_draws : (noteVoice k site sampleRate cl l note draws).2
    = draws + 2 * unisonCount k (cl.cur 8 (2 * l)) := by
  have hsilent := silence_sound (cluster_voice_sound h hl)
  obtain ⟨hpos, hmax⟩ := unisonCount_bounds hk (cl.cur 8 (2 * l))
  rw [noteVoice, uvConfig_draws, noteCluster_cur, hsilent.osc_length, turnsBefore_of_silent_all hk hsilent hpos hmax]

/-- Each group of the voice of VON: its mask, and for each element the cells of a copy that turns on or the old
ones. -/
theorem noteVoice_group {g : Nat} (hg : g < k.k) :
    let n := unisonCount k (cl.cur 8 (2 * l))
    let o := (cl.voice l).osc.getD g default
    let o' := (noteVoice k site sampleRate cl l note draws).1.osc.getD g default
    o'.omask = packMask k n g ∧ ∀ e, e < k.e →
      (copyOn k n g e = true →
        (∃ q, copyAt k n g (e / 2) = some q ∧ o'.phase[e]? = some (start (cl.cur 4 (2 * l + e % 2))
          (Config.draw32 (draws + 2 * q + e % 2))))
        ∧ o'.pinc[e]?
          = some ⟨targetPinc k (0 :: 2 :: site) (noteCluster k site sampleRate cl l note) l n g e, F32.one⟩
        ∧ o'.frame[e]? = some ⟨targetFrame k (1 :: 2 :: site) (noteCluster k site sampleRate cl l note) l n g e, 0⟩)
      ∧ (copyOn k n g e = false →
        o'.phase[e]? = o.phase[e]? ∧ o'.pinc[e]? = o.pinc[e]? ∧ o'.frame[e]? = o.frame[e]?) := by
  intro n o o'
  have huv := cluster_voice_sound h hl
  have hsilent := silence_sound huv
  obtain ⟨hpos, -⟩ := unisonCount_bounds hk (cl.cur 8 (2 * l))
  have hosc : (silence (cl.voice l)).osc[g]? = some { o with omask := 0 } := by
    rw [silence, List.getElem?_map, osc_getElem? huv hg]
    rfl
  obtain ⟨hsound, -⟩ := huv.osc g o (osc_getElem? huv hg)
  have ho' : o' = (configGroup k (2 :: site) (noteCluster k site sampleRate cl l note) l n none g
      { o with omask := 0 } (draws + turnsBefore k n (silence (cl.voice l)) g 0)).1 := by
    have hconfig := uvConfig_osc_getElem? k (2 :: site) (noteCluster k site sampleRate cl l note) l none draws hosc
    rw [noteCluster_cur] at hconfig
    simp only [o']
    rw [noteVoice, List.getD, hconfig, Option.getD_some]
  rw [ho']
  refine ⟨configGroup_omask .., fun e he => ?_⟩
  have hph : o.phase[e]? = some _ := List.getElem?_eq_getElem (hsound.phase ▸ he)
  have hpc : o.pinc[e]? = some _ := List.getElem?_eq_getElem (hsound.pinc ▸ he)
  have hfc : o.frame[e]? = some _ := List.getElem?_eq_getElem (hsound.frame ▸ he)
  refine ⟨fun hon => ?on, fun hoff => ?off⟩
  case on =>
    obtain ⟨hphase, hpinc, hframe⟩ := configGroup_turnsOn k (2 :: site) (noteCluster k site sampleRate cl l note) l n
      none g { o with omask := 0 } (draws + turnsBefore k n (silence (cl.voice l)) g 0) hph hpc hfc hon (sel_zero e)
    obtain ⟨q, hq, hturns⟩ := turnsBefore_of_copy hk hsilent hpos hg he hon
    refine ⟨⟨q, hq, ?_⟩, hpinc, hframe⟩
    rw [hphase, noteCluster_cur, Nat.add_assoc, ← turnsBefore_of_getElem? k n hosc e, hturns, Nat.add_assoc]
  case off =>
    rw [hph, hpc, hfc]
    exact configGroup_off _ _ _ _ _ _ _ _ _ hph hpc hfc hoff

end

/-- Settles O50: the note's cluster, then the voice configured from a clear mask. -/
theorem vonStartsTheVoice : Obligations.VonStartsTheVoice := by
  intro c lane note s hinv hready hlane k l cl
  have hsound := State.inv_iff.1 hinv
  have hcl : cl.Sound k := cluster_sound hsound hready.2
  have hk : k.legal = true := hsound.legal
  have hl8 : l < 8 := Nat.lt_of_lt_of_le hlane (v_le_of_legal hk)
  refine ⟨_, exec_von hready hlane note, rfl, onlyCluster_of_set rfl, ?_⟩
  rw [cluster_of_set rfl (lt_clusters_length hsound hready), voiceOn_eq]
  intro cl' n
  have hvoice : cl'.voice l = (noteVoice k [s.nanSeed] s.sampleRate cl l note.toNat s.draws).1 :=
    voice_of_getElem? (List.getElem?_set_self (by rw [hcl.voices_length]; exact hlane))
  obtain ⟨hcount, hgroups, htail⟩ := noteVoice_packing k [s.nanSeed] s.sampleRate cl l note.toNat s.draws
  rw [hvoice]
  refine ⟨noteCluster_params k [s.nanSeed] s.sampleRate cl l note.toNat, fun j => ?active,
    fun hon => noteCluster_weights_kept k [s.nanSeed] s.sampleRate cl l note.toNat hon,
    ⟨1 :: [s.nanSeed], fun e he => ⟨?base, fun hoff => ⟨0 :: [s.nanSeed], ?weights⟩⟩⟩,
    fun j hj => List.getElem?_set_ne (Ne.symm hj), hcount, hgroups, htail, noteVoice_draws hk hcl _ _ hlane _ _,
    0 :: 2 :: [s.nanSeed], 1 :: 2 :: [s.nanSeed], fun g e hg he => ?group⟩
  case active =>
    rw [maskBit_setMaskBit _ _ _ _ hl8]
    by_cases hj : j = l <;> simp [hj, cl]
  case base =>
    have hlen : cl.basePinc[e]? = some _ := List.getElem?_eq_getElem (hcl.basePinc ▸ he)
    simp only [cl']
    rw [noteCluster_basePinc, getElem?_set_lane, hlen, Option.map_some, ite_self]
  case weights =>
    obtain ⟨hwn, hwf⟩ := noteCluster_weights_snapped k [s.nanSeed] s.sampleRate cl l note.toNat hoff
    have hn : cl.wn[e]? = some _ := List.getElem?_eq_getElem (hcl.wn ▸ he)
    have hf : cl.wf[e]? = some _ := List.getElem?_eq_getElem (hcl.wf ▸ he)
    simp only [cl']
    rw [hwn, hwf, linSnap_getElem?, linSnap_getElem?, hn, hf]
    exact ⟨rfl, rfl⟩
  case group =>
    obtain ⟨hmask, helem⟩ := noteVoice_group hk hcl [s.nanSeed] s.sampleRate hlane note.toNat s.draws hg
    exact ⟨hmask, helem e he⟩

end Sys2Proof.Machine
end

section
/-! SUPPORT. One step of a cluster (`44_cluster.md` R260): the pair of each lane, its ticked weights and the mixed
outputs; and the statement on it. -/

namespace Sys2Proof.Machine

/-! ### The outputs of a step -/

/-- One channel of a stereo pair: 0 left, 1 right. -/
def channel (p : F32 × F32) (ch : Nat) : F32 := if ch = 0 then p.1 else p.2

/-- A list of pairs laid out as elements of lanes. -/
theorem getElem?_flatMap_pair {α : Type} (f : α → F32 × F32) (xs : List α) (e : Nat) :
    (xs.flatMap fun x => [(f x).1, (f x).2])[e]? = (xs[e / 2]?).map fun x => channel (f x) (e % 2) := by
  induction xs generalizing e with
  | nil => simp
  | cons x xs ih =>
    match e with
    | 0 => simp [channel]
    | 1 => simp [channel]
    | e + 2 =>
      have hdiv : (e + 2) / 2 = e / 2 + 1 := by omega
      simp [hdiv, ih]

/-- What lane ℓ of a step leaves and puts out before the mix: a lane not processed stays and gives `+0.0`. -/
def laneStep (k : Config) (site : Site) (bank : BankSlot) (m : Mask) (l : Nat) (uv : Voice) : Voice × F32 × F32 :=
  if maskBit m l then uvProcess k (l :: 0 :: site) bank uv else (uv, F32.zero, F32.zero)

/-- The mix of one element: its own channel by the normal weight, the other one by the flipped weight. -/
def mixElement (site : Site) (wn wf : Lin) (e : Nat) (pair : F32 × F32) : F32 :=
  fadd (0 :: e :: 3 :: site) (fmul (1 :: e :: 3 :: site) (linCur wn e) (channel pair (e % 2)))
    (fmul (2 :: e :: 3 :: site) (linCur wf e) (channel pair (1 - e % 2)))

section
variable (k : Config) (site : Site) (bank : BankSlot) (cl : Cluster) (m : Mask)

theorem clStep_voice_getElem? (l : Nat) : (clStep k site bank cl m).1.voices[l]?
    = (cl.voices[l]?).map fun uv => (laneStep k site bank m l uv).1 := by
  simp only [clStep, List.getElem?_map, List.getElem?_mapIdx, Option.map_map]
  rfl

/-- The pairs of all lanes before the mix. -/
def laneAcc : List F32 := (cl.voices.mapIdx (laneStep k site bank m)).flatMap fun p => [p.2.1, p.2.2]

theorem laneAcc_getElem? (e : Nat) : (laneAcc k site bank cl m)[e]?
    = (cl.voices[e / 2]?).map fun uv => channel (laneStep k site bank m (e / 2) uv).2 (e % 2) := by
  rw [laneAcc, getElem?_flatMap_pair, List.getElem?_mapIdx, Option.map_map]
  rfl

theorem clStep_samples : (clStep k site bank cl m).2 = (laneAcc k site bank cl m).mapIdx fun e a =>
    if maskBit m (e / 2) then
      fadd (0 :: e :: 3 :: site) (fmul (1 :: e :: 3 :: site) (linCur (linTick1 (1 :: site) cl.wn) e) a)
        (fmul (2 :: e :: 3 :: site) (linCur (linTick1 (2 :: site) cl.wf) e)
          ((laneAcc k site bank cl m).getD (swapIdx e) F32.zero))
    else F32.zero := rfl

theorem clStep_sample_getElem? (e : Nat) : (clStep k site bank cl m).2[e]? = (cl.voices[e / 2]?).map fun uv =>
    if maskBit m (e / 2) then mixElement site (linTick1 (1 :: site) cl.wn) (linTick1 (2 :: site) cl.wf) e
      (laneStep k site bank m (e / 2) uv).2
    else F32.zero := by
  have hdiv : swapIdx e / 2 = e / 2 := by unfold swapIdx laneOf chOf; omega
  have hmod : swapIdx e % 2 = 1 - e % 2 := by unfold swapIdx laneOf chOf; omega
  rw [clStep_samples, List.getElem?_mapIdx, laneAcc_getElem?, Option.map_map, List.getD_eq_getElem?_getD,
    laneAcc_getElem?, hdiv, hmod]
  cases cl.voices[e / 2]? with
  | none => simp only [Option.map_none]
  | some uv => simp only [Option.map_some, Option.getD_some, Function.comp_apply, mixElement]

end

/-- Settles O57: a lane's two elements are mixed from its pair, each with its channels exchanged for the flipped
weight. -/
theorem clusterStepMixesEachLane : Obligations.ClusterStepMixesEachLane := by
  intro k site bank cl m hk hok p
  have hcl := Cluster.ok_iff.1 hok
  refine ⟨rfl, (clStep_sound hcl site bank m).2, fun e x y hx hy => ?_, fun l uv huv => ?_⟩
  · have hwn := linTick1_getElem? (1 :: site) cl.wn e
    have hwf := linTick1_getElem? (2 :: site) cl.wf e
    rw [hx] at hwn
    rw [hy] at hwf
    exact ⟨_, _, hwn, hwf⟩
  have hvoice := clStep_voice_getElem? k site bank cl m l
  have heven := clStep_sample_getElem? k site bank cl m (2 * l)
  have hodd := clStep_sample_getElem? k site bank cl m (2 * l + 1)
  rw [show 2 * l / 2 = l by omega, huv] at heven
  rw [show (2 * l + 1) / 2 = l by omega, huv] at hodd
  rw [huv] at hvoice
  simp only [Option.map_some, laneStep] at hvoice heven hodd
  refine ⟨fun hoff => ?_, fun hon => ?_⟩
  · simp only [hoff] at hvoice heven hodd
    exact ⟨hvoice, heven, hodd⟩
  · simp only [hon, if_true, mixElement, Nat.mul_mod_right, Nat.mul_add_mod] at hvoice heven hodd
    exact ⟨_, _, _, _, _, _, _, hvoice, heven, hodd⟩

end Sys2Proof.Machine
end

section
/-! SUPPORT. PROCESS in its four steps (`44_cluster.md` R262): the set-up of a block with its draws counted along the
lanes, the samples one after another and where each goes in OUT (`20_memory.md` R75), and the statements on PROCESS. -/

namespace Sys2Proof.Machine

/-! ### The checks of PROCESS -/

/-- PROCESS passes its checks: the cluster exists, the block is legal and lies in OUT, a bank is active
(`44_cluster.md` R262, `60_exceptions.md` R302). -/
structure Processable (s : State) (c : Field) (n out : Word) : Prop where
  ready : clusterReady s c
  some_samples : n ≠ 0
  le_maxBlock : n.toNat ≤ s.maxBlock.toNat
  window : out.toNat + n.toNat * s.cfg.e ≤ s.cfg.outSize
  bank : s.activeBank.valid = true

/-- The block check of PROCESS. -/
theorem badBlock_iff (s : State) (n out : Word) :
    (decide (n.toNat = 0) || decide (s.maxBlock.toNat < n.toNat)
      || decide (s.cfg.outSize < out.toNat + n.toNat * s.cfg.e)) = true
    ↔ n = 0 ∨ s.maxBlock.toNat < n.toNat ∨ s.cfg.outSize < out.toNat + n.toNat * s.cfg.e := by
  simp [or_assoc, BitVec.toNat_eq]

theorem badBlock_eq_false {s : State} {n out : Word} (hn : n ≠ 0) (hmax : n.toNat ≤ s.maxBlock.toNat)
    (hwindow : out.toNat + n.toNat * s.cfg.e ≤ s.cfg.outSize) :
    (decide (n.toNat = 0) || decide (s.maxBlock.toNat < n.toNat)
      || decide (s.cfg.outSize < out.toNat + n.toNat * s.cfg.e)) = false := by
  rw [Bool.eq_false_iff, ne_eq, badBlock_iff]
  rintro (h | h | h)
  · exact hn h
  · omega
  · omega

/-- Settles O54: the block is checked before the bank. -/
theorem processErrorsInOrder : Obligations.ProcessErrorsInOrder := by
  intro c mask n out s hready
  refine ⟨fun hbad => ?_, fun hn hmax hwindow hbank => ?_⟩
  · rw [exec, execProcess, checked_of_clusterReady hready, checked_cons_fail ((badBlock_iff s n out).2 hbad)]
    rfl
  · rw [exec, execProcess, checked_of_clusterReady hready, checked_cons_pass (badBlock_eq_false hn hmax hwindow),
      checked_cons_fail (by simp [hbank])]
    rfl

/-! ### The samples -/

section
variable (k : Config) (site : Site) (bank : BankSlot) (m : Mask) (cl : Cluster)

/-- The cluster after i samples of a block. -/
def clusterAfter : Nat → Cluster
  | 0 => cl
  | i + 1 => (clStep k (i :: site) bank (clusterAfter i) m).1

/-- Sample i of a block, E elements. -/
def sampleAt (i : Nat) : List F32 := (clStep k (i :: site) bank (clusterAfter k site bank m cl i) m).2

variable {cl}

theorem clusterAfter_sound (h : cl.Sound k) (i : Nat) : (clusterAfter k site bank m cl i).Sound k := by
  induction i with
  | zero => exact h
  | succ i ih => exact (clStep_sound ih (i :: site) bank m).1

theorem sampleAt_length (h : cl.Sound k) (i : Nat) : (sampleAt k site bank m cl i).length = k.e :=
  (clStep_sound (clusterAfter_sound k site bank m h i) (i :: site) bank m).2

variable (cl)

theorem sampleLoop_cluster (out todo s : Nat) (mem : Memory) :
    (sampleLoop k site bank m out todo s (clusterAfter k site bank m cl s) mem).1
      = clusterAfter k site bank m cl (s + todo) := by
  induction todo generalizing s mem with
  | zero => rfl
  | succ todo ih =>
    rw [show s + (todo + 1) = s + 1 + todo by omega]
    exact ih (s + 1) _

/-- The memory after the remaining samples of a block, sample s first. -/
theorem sampleLoop_memory_succ (out todo s : Nat) (mem : Memory) :
    (sampleLoop k site bank m out (todo + 1) s (clusterAfter k site bank m cl s) mem).2
      = (sampleLoop k site bank m out todo (s + 1) (clusterAfter k site bank m cl (s + 1))
          (mem.writeList (out + s * k.e) (sampleAt k site bank m cl s))).2 := rfl

variable {cl} (h : cl.Sound k) (out todo s : Nat) (mem : Memory)
include h

/-- The samples write nothing outside their window. -/
theorem sampleLoop_lookup_outside {a : Nat} (ha : a < out + s * k.e ∨ out + (s + todo) * k.e ≤ a) :
    (sampleLoop k site bank m out todo s (clusterAfter k site bank m cl s) mem).2.lookup a = mem.lookup a := by
  induction todo generalizing s mem with
  | zero => rfl
  | succ todo ih =>
    have hnext : (s + 1) * k.e = s * k.e + k.e := Nat.succ_mul s k.e
    have hall : (s + 1) * k.e ≤ (s + (todo + 1)) * k.e := Nat.mul_le_mul_right _ (by omega)
    have hsucc : s + 1 + todo = s + (todo + 1) := by omega
    rw [sampleLoop_memory_succ, ih _ _ (by rw [hsucc]; omega), Memory.lookup_writeList, if_neg]
    rw [sampleAt_length k site bank m h]
    omega

/-- Sample i goes to its place of the window. -/
theorem sampleLoop_lookup_inside {i e : Nat} (hs : s ≤ i) (hi : i < s + todo) (he : e < k.e) :
    (sampleLoop k site bank m out todo s (clusterAfter k site bank m cl s) mem).2.lookup (out + i * k.e + e)
      = (sampleAt k site bank m cl i)[e]? := by
  induction todo generalizing s mem with
  | zero => omega
  | succ todo ih =>
    rw [sampleLoop_memory_succ]
    rcases Nat.eq_or_lt_of_le hs with rfl | hlt
    · have hnext : (s + 1) * k.e = s * k.e + k.e := Nat.succ_mul s k.e
      rw [sampleLoop_lookup_outside k site bank m h _ _ _ _ (by omega), Memory.lookup_writeList,
        sampleAt_length k site bank m h, if_pos (by omega), Nat.add_sub_cancel_left]
    · exact ih _ _ hlt (by omega)

end

/-- What no sample of a block changes. -/
theorem clusterAfter_frame (k : Config) (site : Site) (bank : BankSlot) (m : Mask) (cl : Cluster) (i : Nat) :
    (clusterAfter k site bank m cl i).params = cl.params
    ∧ (clusterAfter k site bank m cl i).basePinc = cl.basePinc
    ∧ (clusterAfter k site bank m cl i).laneActive = cl.laneActive := by
  induction i with
  | zero => exact ⟨rfl, rfl, rfl⟩
  | succ i ih => exact ih

/-- The voice of a lane that is not processed is frozen. -/
theorem clusterAfter_frozen (k : Config) (site : Site) (bank : BankSlot) {m : Mask} (cl : Cluster) (i : Nat) {l : Nat}
    (hoff : maskBit m l = false) : (clusterAfter k site bank m cl i).voices[l]? = cl.voices[l]? := by
  induction i with
  | zero => rfl
  | succ i ih => rw [clusterAfter, clStep_voice_getElem?, ih]; simp [laneStep, hoff]

/-! ### The set-up of a block -/

/-- The mix weights read a cluster's parameters only. -/
theorem weights_of_params (k : Config) (site : Site) {cl cl' : Cluster} (h : cl.params = cl'.params) :
    weightNormal k site cl = weightNormal k site cl' ∧ weightFlipped k site cl = weightFlipped k site cl' := by
  have hcur : cl.cur = cl'.cur := by
    funext p x
    rw [Cluster.cur, Cluster.cur, Cluster.param, Cluster.param, h]
  constructor
  · funext x
    rw [weightNormal, weightNormal, panWeight, panWeight, hcur]
  · funext x
    rw [weightFlipped, weightFlipped, panWeight, panWeight, hcur]

/-- One visit of the set-up: a processed voice is retargeted over the block, any other stays. -/
def setupVisit (k : Config) (site : Site) (ticked : Cluster) (m : Mask) (t : F32) (l : Nat) (uv : Voice) (d : Nat) :
    Voice × Nat :=
  if maskBit m l then uvSetSmooth k (l :: 1 :: site) ticked l t uv d else (uv, d)

section
variable (k : Config) (site : Site) (cl : Cluster) (m : Mask) (n draws : Nat)

theorem blockSetup_voices : (blockSetup k site cl m n draws).1.voices = (mapAcc (setupVisit k site
    (clTickN (0 :: site) cl n) m (recip n)) 0 cl.voices draws).1 := rfl

theorem blockSetup_frame : (blockSetup k site cl m n draws).1.params = (clTickN (0 :: site) cl n).params
    ∧ (blockSetup k site cl m n draws).1.basePinc = cl.basePinc
    ∧ (blockSetup k site cl m n draws).1.laneActive = cl.laneActive := ⟨rfl, rfl, rfl⟩

/-- Both ramps run to the weights of the ticked parameters. -/
theorem blockSetup_weights : (blockSetup k site cl m n draws).1.wn
      = linSet (3 :: site) cl.wn (weightNormal k (2 :: site) (clTickN (0 :: site) cl n)) (recip n)
          (fun _ => true)
    ∧ (blockSetup k site cl m n draws).1.wf
      = linSet (4 :: site) cl.wf (weightFlipped k (2 :: site) (clTickN (0 :: site) cl n)) (recip n)
          (fun _ => true) := by
  obtain ⟨hn, hf⟩ := weights_of_params k (2 :: site) (cl := { clTickN (0 :: site) cl n with
    voices := (blockSetup k site cl m n draws).1.voices }) (cl' := clTickN (0 :: site) cl n) rfl
  rw [← hn, ← hf]
  exact ⟨rfl, rfl⟩

variable {cl} (h : cl.Sound k)
include h

theorem setupVisit_draws (ticked : Cluster) (hvoices : ticked.voices = cl.voices) (t : F32) : ∀ (l : Nat) (uv : Voice)
    (d : Nat), cl.voices[l]? = some uv →
    (setupVisit k site ticked m t l uv d).2 = d + if maskBit m l then laneTurns k ticked l else 0 := by
  intro l uv d huv
  have hvoice : ticked.voice l = uv := voice_of_getElem? (by rw [hvoices, huv])
  unfold setupVisit laneTurns
  split
  · rw [uvSetSmooth, uvConfig_draws, (h.voice l uv huv).osc_length, hvoice]
  · rfl

/-- The draws of a block are those of its processed lanes. -/
theorem blockSetup_draws :
    (blockSetup k site cl m n draws).2 = laneDraw k (clTickN (0 :: site) cl n) m draws k.v := by
  rw [laneDraw, ← h.voices_length]
  exact mapAcc_draws (setupVisit_draws k site m h (clTickN (0 :: site) cl n) rfl (recip n)) draws

/-- A processed voice is retargeted after the draws of the lanes below it. -/
theorem blockSetup_voice_getElem? {l : Nat} {uv : Voice} (huv : cl.voices[l]? = some uv) :
    (blockSetup k site cl m n draws).1.voices[l]? = some (if maskBit m l then
      (uvSetSmooth k (l :: 1 :: site) (clTickN (0 :: site) cl n) l (recip n) uv
        (laneDraw k (clTickN (0 :: site) cl n) m draws l)).1 else uv) := by
  rw [blockSetup_voices, mapAcc_getElem?_draws
    (setupVisit_draws k site m h (clTickN (0 :: site) cl n) rfl (recip n)) draws huv, laneDraw]
  unfold setupVisit
  split <;> rfl

end

/-! ### The command -/

section
variable (s : State) (c : Field) (mask : Mask) (n out : Word)

/-- The lanes that PROCESS processes: active and selected. -/
def processMask : Mask := (s.cluster c.toNat).laneActive &&& mask

/-- The cluster of PROCESS after its set-up, and the draws taken. -/
def processSetup : Cluster × Nat :=
  blockSetup s.cfg (0 :: [s.nanSeed]) (s.cluster c.toNat) (processMask s c mask) n.toNat s.draws

/-- The cluster of PROCESS after i samples. -/
def processAfter (i : Nat) : Cluster := clusterAfter s.cfg (1 :: [s.nanSeed]) (s.bank s.activeBank.slot.toNat)
  (processMask s c mask) (processSetup s c mask n).1 i

/-- Sample i of PROCESS. -/
def processSample (i : Nat) : List F32 := sampleAt s.cfg (1 :: [s.nanSeed]) (s.bank s.activeBank.slot.toNat)
  (processMask s c mask) (processSetup s c mask n).1 i

/-- OUT after PROCESS. -/
def processOut : Memory := (sampleLoop s.cfg (1 :: [s.nanSeed]) (s.bank s.activeBank.slot.toNat)
  (processMask s c mask) out.toNat n.toNat 0 (processSetup s c mask n).1 s.outMem).2

/-- The state after a completed PROCESS. -/
def processed : State := { answeredOk s 0 with
  clusters := s.clusters.set c.toNat (processAfter s c mask n n.toNat)
  outMem := processOut s c mask n out
  draws := (processSetup s c mask n).2
  nanSeed := s.nanSeed + 1 }

variable {s c n out}

theorem exec_process (h : Processable s c n out) :
    exec (.process c mask n out) s = .next (processed s c mask n out) := by
  rw [exec, execProcess, checked_of_clusterReady h.ready,
    checked_cons_pass (badBlock_eq_false h.some_samples h.le_maxBlock h.window),
    checked_cons_pass (by simp [h.bank]), checked]
  have hcluster := sampleLoop_cluster s.cfg (1 :: [s.nanSeed]) (s.bank s.activeBank.slot.toNat) (processMask s c mask)
    (processSetup s c mask n).1 out.toNat n.toNat 0 s.outMem
  rw [Nat.zero_add] at hcluster
  rw [processed, processAfter, ← hcluster]
  rfl

variable (hs : s.Sound) (hready : clusterReady s c)
include hs hready

theorem processSetup_sound : (processSetup s c mask n).1.Sound s.cfg :=
  blockSetup_sound hs.legal (cluster_sound hs hready.2) _ (fun _ => maskBit_and_left (b := mask)) _ _

theorem processAfter_sound (i : Nat) : (processAfter s c mask n i).Sound s.cfg :=
  clusterAfter_sound _ _ _ _ (processSetup_sound mask hs hready) i

theorem processed_cluster : (processed s c mask n out).cluster c.toNat = processAfter s c mask n n.toNat :=
  cluster_of_set rfl (lt_clusters_length hs hready)

theorem processOut_lookup_outside {a : Nat} (ha : a < out.toNat ∨ out.toNat + n.toNat * s.cfg.e ≤ a) :
    (processOut s c mask n out).lookup a = s.outMem.lookup a :=
  sampleLoop_lookup_outside _ _ _ _ (processSetup_sound mask hs hready) _ _ 0 _ (by rwa [Nat.zero_mul, Nat.zero_add])

theorem processOut_lookup_inside {i e : Nat} (hi : i < n.toNat) (he : e < s.cfg.e) :
    (processOut s c mask n out).lookup (out.toNat + i * s.cfg.e + e) = (processSample s c mask n i)[e]? :=
  sampleLoop_lookup_inside _ _ _ _ (processSetup_sound mask hs hready) _ _ 0 _ (Nat.zero_le i) (by omega) he

/-- Every element of a sample, `+0.0` in a lane not processed. -/
theorem processSample_getElem? (i : Nat) {e : Nat} (he : e < s.cfg.e) : ∃ x, (processSample s c mask n i)[e]? = some x
    ∧ (maskBit (processMask s c mask) (e / 2) = false → x = 0) := by
  have hlane : e / 2 < s.cfg.v := by unfold Config.e at he; omega
  have hvoice := voices_getElem? (processAfter_sound mask hs hready (n := n) i) hlane
  refine ⟨_, (clStep_sample_getElem? ..).trans (congrArg _ hvoice), fun hoff => if_neg ?_⟩
  simp [hoff]

end

/-- Settles O55: the command's window and cluster, and the frames of its set-up and its samples. -/
theorem processWritesOneBlock : Obligations.ProcessWritesOneBlock := by
  intro c mask n out s hinv hready hn hmax hwindow hbank k cl m
  have hs := State.inv_iff.1 hinv
  refine ⟨_, exec_process mask ⟨hready, hn, hmax, hwindow, hbank⟩, rfl, onlyCluster_of_set rfl,
    fun a ha => processOut_lookup_outside mask hs hready ha, fun i e hi he => ?_, ?_⟩
  · obtain ⟨x, hx, hoff⟩ := processSample_getElem? mask hs hready (n := n) i he
    exact ⟨x, (processOut_lookup_inside mask hs hready hi he).trans hx, hoff⟩
  rw [processed_cluster mask hs hready]
  obtain ⟨hparams, hbase, hactive⟩ := clusterAfter_frame s.cfg (1 :: [s.nanSeed]) (s.bank s.activeBank.slot.toNat)
    (processMask s c mask) (processSetup s c mask n).1 n.toNat
  obtain ⟨hparams0, hbase0, hactive0⟩ := blockSetup_frame k (0 :: [s.nanSeed]) cl m n.toNat s.draws
  refine ⟨hactive.trans hactive0, hbase.trans hbase0, fun p e => ⟨0 :: e :: p :: 0 :: 0 :: [s.nanSeed],
    1 :: e :: p :: 0 :: 0 :: [s.nanSeed], ?_⟩, fun l hoff => ?_⟩
  · rw [paramCell, getElem?_clusters_of_set rfl, paramCell]
    cases hcl : s.clusters[c.toNat]? with
    | none => rfl
    | some x =>
      have hx : cl = x := cluster_of_getElem? hcl
      rw [Option.map_some, Option.bind_some, Option.bind_some, ← hx, processAfter, hparams.trans hparams0, clTickN,
        List.getElem?_mapIdx]
      cases cl.params[p]? with
      | none => rfl
      | some w => exact linTickN_getElem? _ w _ e
  · refine (clusterAfter_frozen _ _ _ _ _ hoff).trans ?_
    cases huv : cl.voices[l]? with
    | none =>
      refine List.getElem?_eq_none ?_
      rw [processSetup, blockSetup_voices, mapAcc_length]
      exact List.getElem?_eq_none_iff.1 huv
    | some uv =>
      refine (blockSetup_voice_getElem? k _ m n.toNat s.draws (cluster_sound hs hready.2) huv).trans ?_
      rw [if_neg (by simp [hoff])]

/-- Settles O56: the state after i samples, from the set-up on. -/
theorem processRunsItsStepsInOrder : Obligations.ProcessRunsItsStepsInOrder := by
  intro c mask n out s hinv hready hn hmax hwindow hbank k cl m bank
  have hs := State.inv_iff.1 hinv
  have hcl : cl.Sound k := cluster_sound hs hready.2
  obtain ⟨hwn, hwf⟩ := blockSetup_weights k (0 :: [s.nanSeed]) cl m n.toNat s.draws
  obtain ⟨htargetN, htargetF⟩ := weights_of_params k (2 :: 0 :: [s.nanSeed])
    (cl := clTickN (0 :: 0 :: [s.nanSeed]) cl n.toNat) (cl' := processAfter s c mask n 0) rfl
  refine ⟨_, processAfter s c mask n, 2 :: 0 :: [s.nanSeed], 0 :: 0 :: [s.nanSeed],
    fun l => l :: 1 :: 0 :: [s.nanSeed], fun i => i :: 1 :: [s.nanSeed],
    exec_process mask ⟨hready, hn, hmax, hwindow, hbank⟩, processed_cluster mask hs hready, rfl,
    blockSetup_draws k _ m _ _ hcl, fun l uv huv => blockSetup_voice_getElem? k _ m _ _ hcl huv,
    fun e x hx => ⟨0 :: e :: 3 :: 0 :: [s.nanSeed], 1 :: e :: 3 :: 0 :: [s.nanSeed], ?_⟩,
    fun e x hx => ⟨0 :: e :: 4 :: 0 :: [s.nanSeed], 1 :: e :: 4 :: 0 :: [s.nanSeed], ?_⟩,
    fun i hi => ⟨rfl, fun e he => processOut_lookup_inside mask hs hready hi he⟩⟩
  · have hcell := linSet_getElem? (3 :: 0 :: [s.nanSeed]) cl.wn (weightNormal k (2 :: 0 :: [s.nanSeed])
      (clTickN (0 :: 0 :: [s.nanSeed]) cl n.toNat)) (recip n.toNat) (fun _ => true) e
    rw [← hwn, htargetN, hx] at hcell
    exact hcell
  · have hcell := linSet_getElem? (4 :: 0 :: [s.nanSeed]) cl.wf (weightFlipped k (2 :: 0 :: [s.nanSeed])
      (clTickN (0 :: 0 :: [s.nanSeed]) cl n.toNat)) (recip n.toNat) (fun _ => true) e
    rw [← hwf, htargetF, hx] at hcell
    exact hcell

end Sys2Proof.Machine
end

section
/-! SUPPORT. The float operations NaN for NaN (`00_scope.md` R12, `93_implementation_defined.md` U10): what no claim may
tell apart goes to what no claim may tell apart, and what reads no payload goes to the same value
(`70_reset_and_hazards.md` R353); and the statement on the mix weights (`44_cluster.md` R239, R240). -/

namespace Sys2Proof.Machine

/-! ### Float results -/

/-- An operation whose place reaches only the payload of a NaN and that gives NaN for a NaN operand tells no two such
operands apart. -/
theorem sameF32_binary {op : Site → F32 → F32 → F32} (hsite : ∀ s s' x y, sameF32 (op s x y) (op s' x y))
    (hnan : ∀ s x y, isNaN x = true ∨ isNaN y = true → isNaN (op s x y) = true) (s s' : Site) {x x' y y' : F32}
    (hx : sameF32 x x') (hy : sameF32 y y') : sameF32 (op s x y) (op s' x' y') := by
  rcases hx with rfl | ⟨hx, hx'⟩
  · rcases hy with rfl | ⟨hy, hy'⟩
    · exact hsite s s' x y
    · exact .inr ⟨hnan s x y (.inr hy), hnan s' x y' (.inr hy')⟩
  · exact .inr ⟨hnan s x y (.inl hx), hnan s' x' y' (.inl hx')⟩

theorem fdiv_sameF32 (site site' : Site) (x y : F32) : sameF32 (fdiv site x y) (fdiv site' x y) := by
  have drawn : sameF32 (quietNaN site) (quietNaN site') := .inr ⟨isNaN_quietNaN _, isNaN_quietNaN _⟩
  unfold fdiv
  dsimp only
  split
  · exact drawn
  split
  · split
    · exact drawn
    · exact sameF32_refl _
  split
  · exact sameF32_refl _
  split
  · split
    · exact drawn
    · exact sameF32_refl _
  · exact sameF32_refl _

theorem fsqrt_sameF32 (site site' : Site) (x : F32) : sameF32 (fsqrt site x) (fsqrt site' x) := by
  have drawn : sameF32 (quietNaN site) (quietNaN site') := .inr ⟨isNaN_quietNaN _, isNaN_quietNaN _⟩
  unfold fsqrt
  split
  · exact drawn
  split
  · exact sameF32_refl _
  split
  · exact drawn
  · exact sameF32_refl _

section
variable (s s' : Site) {x x' y y' : F32} (hx : sameF32 x x') (hy : sameF32 y y')
include hx

theorem sameF32_fsqrt : sameF32 (fsqrt s x) (fsqrt s' x') := by
  rcases hx with rfl | ⟨hx, hx'⟩
  · exact fsqrt_sameF32 s s' x
  · exact .inr ⟨fsqrt_nan s hx, fsqrt_nan s' hx'⟩

include hy

theorem sameF32_fadd : sameF32 (fadd s x y) (fadd s' x' y') := by
  refine sameF32_binary fadd_sameF32 (fun s x y h => ?_) s s' hx hy
  obtain ⟨-, hsum, -, -, -⟩ := nan_operand s h
  exact hsum

theorem sameF32_fsub : sameF32 (fsub s x y) (fsub s' x' y') := by
  refine sameF32_binary (fun s s' x y => fadd_sameF32 s s' x (fnegate y)) (fun s x y h => ?_) s s' hx hy
  obtain ⟨-, -, hdiff, -, -⟩ := nan_operand s h
  exact hdiff

theorem sameF32_fmul : sameF32 (fmul s x y) (fmul s' x' y') := by
  refine sameF32_binary fmul_sameF32 (fun s x y h => ?_) s s' hx hy
  obtain ⟨-, -, -, hprod, -⟩ := nan_operand s h
  exact hprod

theorem sameF32_fdiv : sameF32 (fdiv s x y) (fdiv s' x' y') := by
  refine sameF32_binary fdiv_sameF32 (fun s x y h => ?_) s s' hx hy
  obtain ⟨-, -, -, -, hquot⟩ := nan_operand s h
  exact hquot

end

/-! ### What reads no payload -/

section
variable {x x' : F32} (h : sameF32 x x')
include h

theorem eq_of_sameF32_zero (hx : x = 0) : x' = 0 := by
  subst hx
  rcases h with h | ⟨hnan, -⟩
  · exact h.symm
  · exact absurd hnan (by decide)

theorem f2i_eq_of_sameF32 : f2i x = f2i x' := by
  rcases h with rfl | ⟨hx, hx'⟩
  · rfl
  · simp [f2i, hx, hx']

theorem delta_eq_of_sameF32 : delta x = delta x' := f2u32_eq_of_sameF32 (sameF32_fmul _ _ h (sameF32_refl _))

theorem start_eq_of_sameF32 (u : Word) : start x u = start x' u := by
  rw [start_eq x u [], start_eq x' u []]
  exact f2u32_eq_of_sameF32 (sameF32_fmul _ _ h (sameF32_refl _))

theorem frameIdx_eq_of_sameF32 (bank : BankSlot) : frameIdx x bank = frameIdx x' bank := by
  rw [frameIdx, frameIdx, f2i_eq_of_sameF32 h]

theorem unisonCount_eq_of_sameF32 (k : Config) : unisonCount k x = unisonCount k x' := by
  rw [unisonCount, unisonCount, f2i_eq_of_sameF32 h]

theorem isPosFinite_eq_of_sameF32 : isPosFinite x = isPosFinite x' := by
  rcases h with rfl | ⟨hx, hx'⟩
  · rfl
  · simp [isPosFinite, flt, hx, hx']

theorem ratio_eq_of_sameF32 (k : Config) (s s' : Site) : ratio k s x = ratio k s' x' :=
  exp2_sameF32 k _ _ (sameF32_fdiv s s' h (sameF32_refl _))

end

/-- A retargeted cell of a logarithmic smoother. -/
theorem sameLogCell_logSetCell {c c' : LogCell} {g g' : F32} (hc : sameLogCell c c') (hg : sameF32 g g') (t : F32) :
    sameLogCell (logSetCell c g t) (logSetCell c' g' t) := by
  obtain ⟨hcur, hfac⟩ := hc
  unfold logSetCell
  rw [isPosFinite_eq_of_sameF32 hcur, isPosFinite_eq_of_sameF32 hg]
  split
  · exact ⟨hcur, pow_sameF32 _ _ _ _ (sameF32_fdiv _ _ hg hcur) (sameF32_refl t)⟩
  · exact ⟨hg, sameF32_refl _⟩

/-- A lookup reads the bank and the phase; its place reaches the payload of a NaN only. -/
theorem resample_sameF32 (k : Config) (s s' : Site) (bank : BankSlot) (d : Word) (fi : Nat) (phase : Word) :
    sameF32 (resample k s bank d fi phase) (resample k s' bank d fi phase) :=
  sameF32_fadd _ _ (sameF32_refl _) (sameF32_fmul _ _ (fadd_sameF32 _ _ _ _) (sameF32_refl _))

/-! ### The mix weights -/

section
variable (k : Config) (site : Site) (cl : Cluster) (x : Nat)

/-- At stereo width 0 both weights have the factor 1.0. -/
theorem weights_of_width_zero (h : cl.cur pStereo x = F32.zero) :
    sameF32 (weightNormal k site cl x) (weightFlipped k site cl x) := by
  have hone : isNaN F32.one = false ∧ F32.one ≠ 0x80000000 ∧ fsub [] F32.one F32.zero = F32.one := by decide +kernel
  obtain ⟨hnum, hpos, hdiff⟩ := hone
  have hsub : fsub (9 :: x :: site) F32.one F32.zero = F32.one :=
    eq_of_sameF32 (hdiff ▸ sameF32_fsub _ [] (sameF32_refl _) (sameF32_refl _)) hnum
  rw [weightNormal, weightFlipped, h, fadd_zero _ hnum hpos, hsub]
  exact sameF32_fmul _ _ (sameF32_fsqrt _ _ (fmul_sameF32 _ _ _ _)) (sameF32_refl _)

/-- At stereo width 1 the flipped weight has the factor 0.0. -/
theorem weightFlipped_of_width_one (h : cl.cur pStereo x = F32.one) (hpan : isFinite (panWeight k site cl x) = true)
    (hlevel : isFinite (cl.cur pLevel x) = true) : isZero (weightFlipped k site cl x) = true := by
  have hone : isFinite F32.one = true ∧ fval F32.one - fval F32.one = 0
      ∧ (fsign F32.one && !fsign F32.one) = false := by decide
  obtain ⟨hfin, hval, hsign⟩ := hone
  rw [weightFlipped, h, fsub_exact_zero _ hfin hfin hval, hsign, if_neg Bool.false_ne_true]
  have hprod : isZero (fmul (8 :: x :: site) (panWeight k site cl x) 0) = true := fmul_zero _ hpan
  refine isZero_fmul_of_isZero _ ?_ hlevel
  rw [fsqrt_of_zero_or_inf _ (.inl hprod)]
  exact hprod

end

/-- Settles O58: the formulas by definition; the widths 0 and 1 make the flipped weight's factor 1.0 and 0.0. -/
theorem mixWeightsFollowTheParameters : Obligations.MixWeightsFollowTheParameters := by
  intro k site cl x nf
  refine ⟨1 :: x :: site, fun _ => 0 :: x :: site, fun b => if b then 2 :: x :: site else 6 :: x :: site,
    fun b => if b then 3 :: x :: site else 7 :: x :: site, fun b => if b then 4 :: x :: site else 8 :: x :: site,
    fun b => if b then 5 :: x :: site else 9 :: x :: site, rfl, rfl, weights_of_width_zero k site cl x,
    fun hwidth hpan hlevel => weightFlipped_of_width_one k site cl x hwidth ?_ hlevel⟩
  have hquot := eq_of_sameF32 (fdiv_sameF32 (0 :: x :: site) (1 :: x :: site) _ _) (classes_of_isFinite hpan).1
  exact (congrArg isFinite hquot).trans hpan

end Sys2Proof.Machine
end

section
/-! SUPPORT. Oscillators and voices NaN for NaN (`93_implementation_defined.md` U10): what two voices that no claim may
tell apart become under one step (`43_unison_voice.md` R212) and under the retargeting of a block (R211). -/

namespace Sys2Proof.Machine

/-! ### Lists whose elements correspond -/

section
variable {α β γ δ : Type} {R : α → β → Prop} {S : γ → δ → Prop} {xs : List α} {ys : List β}

theorem forall₂_getElem? (h : List.Forall₂ R xs ys) {i : Nat} {x : α} {y : β} (hx : xs[i]? = some x)
    (hy : ys[i]? = some y) : R x y := by
  obtain ⟨hi, rfl⟩ := List.getElem?_eq_some_iff.1 hx
  obtain ⟨hi', rfl⟩ := List.getElem?_eq_some_iff.1 hy
  exact h.get hi hi'

theorem forall₂_getD (h : List.Forall₂ R xs ys) {d : α} {d' : β} (hd : R d d') (i : Nat) :
    R (xs.getD i d) (ys.getD i d') := by
  induction h generalizing i with
  | nil => simpa using hd
  | cons hab _ ih =>
    cases i with
    | zero => exact hab
    | succ i => exact ih i

/-- Lists made element by element correspond when their elements do. -/
theorem forall₂_of_getElem?_map {xs' : List γ} {ys' : List δ} {f : Nat → α → γ} {g : Nat → β → δ}
    (h : List.Forall₂ R xs ys) (hx : ∀ i, xs'[i]? = (xs[i]?).map (f i)) (hy : ∀ i, ys'[i]? = (ys[i]?).map (g i))
    (hfg : ∀ i x y, xs[i]? = some x → ys[i]? = some y → R x y → S (f i x) (g i y)) : List.Forall₂ S xs' ys' := by
  obtain rfl : xs' = xs.mapIdx f := List.ext_getElem? fun i => by rw [hx, List.getElem?_mapIdx]
  obtain rfl : ys' = ys.mapIdx g := List.ext_getElem? fun i => by rw [hy, List.getElem?_mapIdx]
  refine List.forall₂_iff_get.2 ⟨by simp [h.length_eq], fun i hi hi' => ?_⟩
  have hxi : xs[i]? = some _ := List.getElem?_eq_getElem (by simpa using hi)
  have hyi : ys[i]? = some _ := List.getElem?_eq_getElem (by simpa using hi')
  simpa using hfg i _ _ hxi hyi (forall₂_getElem? h hxi hyi)

end

/-- Two visits whose steps keep a correspondence of elements and one of accumulators keep both. -/
theorem mapAcc_forall₂ {α σ : Type} {R : α → α → Prop} {Q : σ → σ → Prop} {f g : Nat → α → σ → α × σ}
    (hstep : ∀ i x y a b, R x y → Q a b → R (f i x a).1 (g i y b).1 ∧ Q (f i x a).2 (g i y b).2) {xs ys : List α}
    (h : List.Forall₂ R xs ys) (i : Nat) {a b : σ} (hab : Q a b) :
    List.Forall₂ R (mapAcc f i xs a).1 (mapAcc g i ys b).1 ∧ Q (mapAcc f i xs a).2 (mapAcc g i ys b).2 := by
  induction h generalizing i a b with
  | nil => exact ⟨.nil, hab⟩
  | cons hxy _ ih =>
    obtain ⟨helem, hacc⟩ := hstep i _ _ a b hxy hab
    obtain ⟨hrest, hlast⟩ := ih (i + 1) hacc
    exact ⟨.cons helem hrest, hlast⟩

/-! ### One step of an oscillator -/

section
variable {w w' : Log} (h : List.Forall₂ sameLogCell w w')
include h

theorem logTick1_same (s s' : Site) : List.Forall₂ sameLogCell (logTick1 s w) (logTick1 s' w') := by
  refine forall₂_of_getElem?_map h (logTick1_getElem? s w) (logTick1_getElem? s' w') fun e x y _ _ hxy => ?_
  obtain ⟨hcur, hfac⟩ := hxy
  exact ⟨sameF32_fmul _ _ hcur hfac, hfac⟩

theorem oscDeltas_eq_of_same : oscDeltas w = oscDeltas w' := by
  induction h with
  | nil => rfl
  | cons hxy _ ih =>
    obtain ⟨hcur, -⟩ := hxy
    rw [oscDeltas, List.map_cons, delta_eq_of_sameF32 hcur]
    exact congrArg _ ih

end

section
variable {w w' : Lin} (h : List.Forall₂ sameLinCell w w')
include h

theorem linTick1_same (s s' : Site) : List.Forall₂ sameLinCell (linTick1 s w) (linTick1 s' w') := by
  refine forall₂_of_getElem?_map h (linTick1_getElem? s w) (linTick1_getElem? s' w') fun e x y _ _ hxy => ?_
  obtain ⟨hcur, hinc⟩ := hxy
  exact ⟨sameF32_fadd _ _ hcur hinc, hinc⟩

theorem linCur_same (e : Nat) : sameF32 (linCur w e) (linCur w' e) :=
  (forall₂_getD h (sameLinCell_refl _) e).1

end

theorem resampleMasked_same (k : Config) (s s' : Site) (bank : BankSlot) (lookups : List (Word × Nat × Word))
    (omask : Mask) :
    List.Forall₂ sameF32 (resampleMasked k s bank lookups omask) (resampleMasked k s' bank lookups omask) := by
  refine forall₂_of_getElem?_map (R := Eq) (List.forall₂_refl lookups) (fun e => List.getElem?_mapIdx)
    (fun e => List.getElem?_mapIdx) fun e x y _ _ hxy => ?_
  subst hxy
  split
  · exact resample_sameF32 k _ _ bank _ _ _
  · exact sameF32_refl _

theorem oscStep_same (k : Config) (s s' : Site) (bank : BankSlot) {o o' : Osc} (h : sameOsc o o') :
    sameOsc (oscStep k s bank o).1 (oscStep k s' bank o').1
    ∧ List.Forall₂ sameF32 (oscStep k s bank o).2 (oscStep k s' bank o').2 := by
  obtain ⟨hphase, hmask, hpinc, hframe⟩ := h
  have htick := logTick1_same hpinc (0 :: s) (0 :: s')
  have hlin := linTick1_same hframe (1 :: s) (1 :: s')
  have hdeltas : oscDeltas (oscStep k s bank o).1.pinc = oscDeltas (oscStep k s' bank o').1.pinc :=
    oscDeltas_eq_of_same htick
  have hphases : (oscStep k s bank o).1.phase = (oscStep k s' bank o').1.phase := by
    rw [oscStep_phase, oscStep_phase, hdeltas, hphase]
  have hindex : ∀ e, frameIdx (linCur (oscStep k s bank o).1.frame e) bank
      = frameIdx (linCur (oscStep k s' bank o').1.frame e) bank := fun e =>
    frameIdx_eq_of_sameF32 (linCur_same hlin e) bank
  refine ⟨⟨hphases, hmask, htick, hlin⟩, ?_⟩
  rw [oscStep_samples, oscStep_samples, hdeltas, hphases, hmask]
  simp only [hindex]
  exact resampleMasked_same k _ _ bank _ _

/-! ### One step of a voice -/

/-- Two voices that no claim may tell apart. -/
structure SameVoice (a b : Voice) : Prop where
  nUni : a.nUni = b.nUni
  nOsc : a.nOsc = b.nOsc
  tailMask : a.tailMask = b.tailMask
  osc : List.Forall₂ sameOsc a.osc b.osc

/-- Two stereo pairs that no claim may tell apart. -/
def samePair (p q : F32 × F32) : Prop := sameF32 p.1 q.1 ∧ sameF32 p.2 q.2

theorem sameF32_channel {p q : F32 × F32} (h : samePair p q) (ch : Nat) : sameF32 (channel p ch) (channel q ch) := by
  unfold channel
  split
  · exact h.1
  · exact h.2

theorem addVec_same (s s' : Site) {acc acc' v v' : List F32} (hacc : List.Forall₂ sameF32 acc acc')
    (hv : List.Forall₂ sameF32 v v') : List.Forall₂ sameF32 (addVec s acc v) (addVec s' acc' v') :=
  forall₂_of_getElem?_map hacc (fun _ => List.getElem?_mapIdx) (fun _ => List.getElem?_mapIdx)
    fun e _ _ _ _ hxy => sameF32_fadd _ _ hxy (forall₂_getD hv (sameF32_refl F32.zero) e)

theorem sumTree_same {acc acc' : List F32} (h : List.Forall₂ sameF32 acc acc') (ch : Nat) (t : SumTree)
    (s s' : Site) : sameF32 (sumTree s acc ch t) (sumTree s' acc' ch t) := by
  induction t generalizing s s' with
  | leaf j => exact forall₂_getD h (sameF32_refl _) _
  | node a b iha ihb => exact sameF32_fadd _ _ (iha _ _) (ihb _ _)

theorem processGroup_same (k : Config) (s s' : Site) (bank : BankSlot) (nOsc g : Nat) {o o' : Osc}
    {acc acc' : List F32} (ho : sameOsc o o') (hacc : List.Forall₂ sameF32 acc acc') :
    sameOsc (processGroup k s bank nOsc g o acc).1 (processGroup k s' bank nOsc g o' acc').1
    ∧ List.Forall₂ sameF32 (processGroup k s bank nOsc g o acc).2 (processGroup k s' bank nOsc g o' acc').2 := by
  unfold processGroup
  split
  · obtain ⟨hosc, hsamples⟩ := oscStep_same k (g :: 0 :: s) (g :: 0 :: s') bank ho
    exact ⟨hosc, addVec_same _ _ hacc hsamples⟩
  · exact ⟨ho, hacc⟩

theorem uvProcess_same (k : Config) (s s' : Site) (bank : BankSlot) {uv uv' : Voice} (h : SameVoice uv uv') :
    SameVoice (uvProcess k s bank uv).1 (uvProcess k s' bank uv').1
    ∧ samePair (uvProcess k s bank uv).2 (uvProcess k s' bank uv').2 := by
  have hzero : List.Forall₂ sameF32 (List.replicate k.e F32.zero) (List.replicate k.e F32.zero) :=
    List.forall₂_same.2 fun x _ => sameF32_refl x
  obtain ⟨hosc, hacc⟩ := mapAcc_forall₂
    (fun g o o' acc acc' ho hacc => processGroup_same k s s' bank uv.nOsc g ho hacc) h.osc 0 hzero
  rw [uvProcess_eq, uvProcess_eq, accAfter, accAfter, List.take_length, List.take_length, ← h.nOsc]
  exact ⟨{ h with osc := hosc, nOsc := rfl }, sumTree_same hacc 0 _ _ _, sumTree_same hacc 1 _ _ _⟩

/-! ### The targets of a lane -/

/-- Two lanes whose parameters and base increments no claim may tell apart. -/
structure SameParams (cl cl' : Cluster) (l l' : Nat) : Prop where
  cur : ∀ p ch, p ≤ 8 → ch < 2 → sameF32 (cl.cur p (2 * l + ch)) (cl'.cur p (2 * l' + ch))
  base : ∀ ch, ch < 2 → sameF32 (cl.base (2 * l + ch)) (cl'.base (2 * l' + ch))

section
variable (k : Config) (s s' : Site) {cl cl' : Cluster} {l l' : Nat} (h : SameParams cl cl' l l')
include h

theorem SameParams.unisonCount_eq : unisonCount k (cl.cur 8 (2 * l)) = unisonCount k (cl'.cur 8 (2 * l')) :=
  unisonCount_eq_of_sameF32 (h.cur 8 0 le_rfl (by decide)) k

variable (n g e : Nat)

theorem semitones_same : sameF32 (semitones k s cl l n g e) (semitones k s' cl' l' n g e) := by
  have hcur := fun p hp => h.cur p (chOf e) hp (Nat.mod_lt e (by decide))
  have hspread := sameF32_fmul (0 :: g :: e :: s) (0 :: g :: e :: s') (hcur 0 (by decide)) (hcur 1 (by decide))
  exact sameF32_fadd _ _ (sameF32_fmul _ _ (sameF32_refl _) hspread) (hcur 2 (by decide))

theorem targetPinc_same : sameF32 (targetPinc k s cl l n g e) (targetPinc k s' cl' l' n g e) := by
  have hratio := ratio_eq_of_sameF32 (semitones_same k s s' h n g e) k (4 :: g :: e :: s) (4 :: g :: e :: s')
  rw [targetPinc, targetPinc, hratio]
  exact sameF32_fmul _ _ (h.base _ (Nat.mod_lt e (by decide))) (sameF32_refl _)

theorem targetFrame_same : sameF32 (targetFrame k s cl l n g e) (targetFrame k s' cl' l' n g e) := by
  have hcur := h.cur 3 (chOf e) (by decide) (Nat.mod_lt e (by decide))
  unfold targetFrame
  cases copyAt k n g (laneOf e) with
  | none => exact hcur
  | some q => exact sameF32_fadd _ _ hcur (sameF32_refl _)

end

/-! ### The retargeting of a block -/

theorem rising_eq_of_same {o o' : Osc} (h : sameOsc o o') (mask : Mask) : rising o mask = rising o' mask := by
  obtain ⟨-, hmask, -, -⟩ := h
  funext e
  rw [rising, rising, hmask]

theorem risingBefore_eq_of_same {o o' : Osc} (h : sameOsc o o') (mask : Mask) :
    risingBefore o mask = risingBefore o' mask := by
  funext e
  rw [risingBefore, risingBefore, rising_eq_of_same h]

theorem risingBefore_succ (o : Osc) (mask : Mask) (e : Nat) :
    risingBefore o mask (e + 1) = risingBefore o mask e + if rising o mask e then 1 else 0 := by
  rw [risingBefore, List.range_succ, List.filter_append, List.length_append, List.filter_singleton]
  cases rising o mask e <;> rfl

theorem risingBefore_mono (o : Osc) (mask : Mask) : Monotone (risingBefore o mask) :=
  monotone_nat_of_le_succ fun e => by rw [risingBefore_succ]; exact Nat.le_add_right _ _

theorem turnsBefore_eq_of_same (k : Config) (n : Nat) {uv uv' : Voice} (h : SameVoice uv uv') (g e : Nat) :
    turnsBefore k n uv g e = turnsBefore k n uv' g e := by
  have hosc := fun j => forall₂_getD h.osc (sameOsc_refl default) j
  have hcount := fun j => risingBefore_eq_of_same (hosc j) (packMask k n j)
  have hlen := fun j => congrArg List.length (hosc j).1
  rw [turnsBefore_eq, turnsBefore_eq]
  simp only [hcount, hlen]

theorem turnsBefore_mono (k : Config) (n : Nat) (uv : Voice) : Monotone fun g => turnsBefore k n uv g 0 :=
  monotone_nat_of_le_succ fun g => by
    rw [turnsBefore_eq, turnsBefore_eq, List.range_succ, List.map_append, List.sum_append]
    exact Nat.add_le_add_right (Nat.le_add_right _ _) _

/-- An element that turns on takes one of the draws of its voice. -/
theorem turnsBefore_lt (k : Config) (n : Nat) {uv : Voice} {g e : Nat} {o : Osc} (ho : uv.osc[g]? = some o)
    (he : e < o.phase.length) (hup : rising o (packMask k n g) e = true) :
    turnsBefore k n uv g 0 + risingBefore o (packMask k n g) e < turnsBefore k n uv uv.osc.length 0 := by
  have hg := (List.getElem?_eq_some_iff.1 ho).1
  have hget : uv.osc.getD g default = o := by simp [List.getD, ho]
  have hnext : turnsBefore k n uv (g + 1) 0
      = turnsBefore k n uv g 0 + risingBefore o (packMask k n g) o.phase.length := by
    rw [turnsBefore_eq, turnsBefore_eq, List.range_succ, List.map_append, List.sum_append, List.map_singleton,
      List.sum_singleton, hget]
    rfl
  have hrest : turnsBefore k n uv (g + 1) 0 ≤ turnsBefore k n uv uv.osc.length 0 := turnsBefore_mono k n uv hg
  have hgroup := risingBefore_mono o (packMask k n g) (Nat.succ_le_of_lt he)
  rw [Nat.succ_eq_add_one, risingBefore_succ, if_pos hup] at hgroup
  omega

/-- The first draws from two counts give the same starting phases in two lanes. -/
def sameStarts (cl cl' : Cluster) (l l' count draws draws' : Nat) : Prop :=
  ∀ ch j, ch < 2 → j < count → start (cl.cur 4 (2 * l + ch)) (Config.draw32 (draws + j))
    = start (cl'.cur 4 (2 * l' + ch)) (Config.draw32 (draws' + j))

section
variable (k : Config) (s s' : Site) {cl cl' : Cluster} {l l' : Nat} (h : SameParams cl cl' l l') (t : F32)
include h

/-- A group retargeted: its phases by its draws, its smoothers by the targets. -/
theorem configGroup_same (n g : Nat) {o o' : Osc} (ho : sameOsc o o') (draws draws' : Nat)
    (hstart : ∀ e, e < o.phase.length → rising o (packMask k n g) e = true →
      start (cl.cur 4 (2 * l + e % 2)) (Config.draw32 (draws + risingBefore o (packMask k n g) e))
        = start (cl'.cur 4 (2 * l' + e % 2)) (Config.draw32 (draws' + risingBefore o (packMask k n g) e))) :
    sameOsc (configGroup k s cl l n (some t) g o draws).1 (configGroup k s' cl' l' n (some t) g o' draws').1 := by
  have hrising := rising_eq_of_same ho (packMask k n g)
  have hbefore := risingBefore_eq_of_same ho (packMask k n g)
  obtain ⟨hphase, hmask, hpinc, hframe⟩ := ho
  refine ⟨List.ext_getElem? fun e => ?phase, ?omask, ?pinc, ?frame⟩
  case phase =>
    rw [configGroup_phase_getElem?, configGroup_phase_getElem?, ← hphase, ← hrising, ← hbefore]
    rcases Nat.lt_or_ge e o.phase.length with he | he
    · rw [List.getElem?_eq_getElem he, Option.map_some, Option.map_some]
      split
      next hup => rw [hstart e he hup]
      next => rfl
    · rw [List.getElem?_eq_none he, Option.map_none, Option.map_none]
  case omask => rw [configGroup_omask, configGroup_omask]
  case pinc =>
    refine forall₂_of_getElem?_map hpinc (configGroup_pinc_getElem? k s cl l n (some t) g o draws)
      (configGroup_pinc_getElem? k s' cl' l' n (some t) g o' draws') fun e x y _ _ hxy => ?_
    have htarget := targetPinc_same k (0 :: s) (0 :: s') h n g e
    rw [← hrising]
    split
    · exact ⟨htarget, sameF32_refl _⟩
    split
    · exact sameLogCell_logSetCell hxy htarget t
    · exact hxy
  case frame =>
    refine forall₂_of_getElem?_map hframe (configGroup_frame_getElem? k s cl l n (some t) g o draws)
      (configGroup_frame_getElem? k s' cl' l' n (some t) g o' draws') fun e x y _ _ hxy => ?_
    have htarget := targetFrame_same k (1 :: s) (1 :: s') h n g e
    rw [← hrising]
    split
    · exact ⟨htarget, sameF32_refl _⟩
    split
    · exact ⟨hxy.1, sameF32_fmul _ _ (sameF32_fsub _ _ htarget hxy.1) (sameF32_refl t)⟩
    · exact hxy

/-- A voice retargeted over a block, in another lane and with other draws of the same starting phases. -/
theorem uvSetSmooth_same {uv uv' : Voice} (huv : SameVoice uv uv') (draws draws' : Nat)
    (hstart : sameStarts cl cl' l l' (turnsBefore k (unisonCount k (cl.cur 8 (2 * l))) uv uv.osc.length 0) draws
      draws') :
    SameVoice (uvSetSmooth k s cl l t uv draws).1 (uvSetSmooth k s' cl' l' t uv' draws').1 := by
  have hcount := h.unisonCount_eq k
  have hturns := turnsBefore_eq_of_same k (unisonCount k (cl.cur 8 (2 * l))) huv
  have hcells : ∀ (s : Site) (cl : Cluster) (l : Nat) (uv : Voice) (draws g : Nat),
      (uvSetSmooth k s cl l t uv draws).1.osc[g]? = (uv.osc[g]?).map fun o =>
        (configGroup k s cl l (unisonCount k (cl.cur 8 (2 * l))) (some t) g o
          (draws + turnsBefore k (unisonCount k (cl.cur 8 (2 * l))) uv g 0)).1 := by
    intro s cl l uv draws g
    cases ho : uv.osc[g]? with
    | none =>
      rw [Option.map_none, List.getElem?_eq_none]
      exact (mapAcc_length _ _ _ _).le.trans (List.getElem?_eq_none_iff.1 ho)
    | some o => exact uvConfig_osc_getElem? k s cl l (some t) draws ho
  refine ⟨hcount, congrArg (packGroups k) hcount, ?_, ?_⟩
  · exact congrArg (fun n => packMask k n (packGroups k n - 1)) hcount
  refine forall₂_of_getElem?_map huv.osc (hcells s cl l uv draws) (hcells s' cl' l' uv' draws')
    fun g o o' ho _ hsame => ?_
  rw [← hcount, ← hturns]
  refine configGroup_same k s s' h t _ g hsame _ _ fun e he hup => ?_
  rw [Nat.add_assoc, Nat.add_assoc]
  exact hstart (e % 2) _ (Nat.mod_lt e (by decide)) (turnsBefore_lt k _ ho he hup)

end

end Sys2Proof.Machine
end

section
/-! SUPPORT. Two lanes with the same `LANESTATE` through a PROCESS (`44_cluster.md` R254, `70_reset_and_hazards.md`
R347, R353): each of its steps keeps them the same, NaN for NaN; and the statements on a lane's independence. -/

namespace Sys2Proof.Machine

/-! ### The same lane state, part by part -/

/-- Two smoothers whose cells of a lane no claim may tell apart. -/
def sameCells (w w' : Lin) (l l' : Nat) : Prop :=
  ∀ ch, ch < 2 → sameLinCell (w.getD (2 * l + ch) default) (w'.getD (2 * l' + ch) default)

/-- Two lanes whose `LANESTATE` no claim may tell apart, the parameters by id and the smoothers by channel. -/
structure SameLanes (cl cl' : Cluster) (l l' : Nat) : Prop where
  param : ∀ p, p ≤ 8 → sameCells (cl.param p) (cl'.param p) l l'
  base : ∀ ch, ch < 2 → sameF32 (cl.base (2 * l + ch)) (cl'.base (2 * l' + ch))
  wn : sameCells cl.wn cl'.wn l l'
  wf : sameCells cl.wf cl'.wf l l'
  active : maskBit cl.laneActive l = maskBit cl'.laneActive l'
  voice : SameVoice (cl.voice l) (cl'.voice l')

theorem forall_ch_iff {P : Nat → Prop} : (∀ ch, ch < 2 → P ch) ↔ P 0 ∧ P 1 := by
  constructor
  · exact fun h => ⟨h 0 (by decide), h 1 (by decide)⟩
  · rintro ⟨h0, h1⟩ ch hch
    interval_cases ch
    · exact h0
    · exact h1

theorem sameCells_iff_linPair (w w' : Lin) (l l' : Nat) : sameCells w w' l l'
    ↔ sameLinCell (linPair w l).1 (linPair w' l').1 ∧ sameLinCell (linPair w l).2 (linPair w' l').2 := forall_ch_iff

theorem params_getElem? {k : Config} {cl : Cluster} (h : cl.Sound k) {p : Nat} (hp : p ≤ 8) :
    cl.params[p]? = some (cl.param p) := by
  have hlt : p < cl.params.length := by rw [h.params_length]; omega
  simp [Cluster.param, hlt]

/-- The parameters of a lane correspond by id. -/
theorem forall₂_params_iff {k : Config} {cl cl' : Cluster} (h : cl.Sound k) (h' : cl'.Sound k) (l l' : Nat) :
    List.Forall₂ (fun p q => sameLinCell p.1 q.1 ∧ sameLinCell p.2 q.2) (getLane cl l).params (getLane cl' l').params
    ↔ ∀ p, p ≤ 8 → sameCells (cl.param p) (cl'.param p) l l' := by
  simp only [sameCells_iff_linPair, getLane]
  constructor
  · intro hall p hp
    refine forall₂_getElem? hall (i := p) ?_ ?_
    · rw [List.getElem?_map, params_getElem? h hp, Option.map_some]
    · rw [List.getElem?_map, params_getElem? h' hp, Option.map_some]
  · intro hall
    have hlen : cl.params.length = cl'.params.length := h.params_length.trans h'.params_length.symm
    refine List.forall₂_iff_get.2 ⟨by simpa using hlen, fun p hp hp' => ?_⟩
    rw [List.length_map, h.params_length] at hp
    have hcells := hall p (by omega)
    have hx := params_getElem? h (p := p) (by omega)
    have hx' := params_getElem? h' (p := p) (by omega)
    obtain ⟨_, hx⟩ := List.getElem?_eq_some_iff.1 hx
    obtain ⟨_, hx'⟩ := List.getElem?_eq_some_iff.1 hx'
    simpa [hx, hx'] using hcells

theorem sameLane_getLane_iff {k : Config} {cl cl' : Cluster} (h : cl.Sound k) (h' : cl'.Sound k) (l l' : Nat) :
    sameLane (getLane cl l) (getLane cl' l') ↔ SameLanes cl cl' l l' := by
  rw [sameLane, forall₂_params_iff h h']
  constructor
  · rintro ⟨hparam, hbase0, hbase1, hwn0, hwn1, hwf0, hwf1, hactive, hnUni, hnOsc, htail, hosc⟩
    exact ⟨hparam, forall_ch_iff.2 ⟨hbase0, hbase1⟩, forall_ch_iff.2 ⟨hwn0, hwn1⟩, forall_ch_iff.2 ⟨hwf0, hwf1⟩,
      hactive, hnUni, hnOsc, htail, hosc⟩
  · rintro ⟨hparam, hbase, hwn, hwf, hactive, hnUni, hnOsc, htail, hosc⟩
    obtain ⟨hbase0, hbase1⟩ := forall_ch_iff.1 hbase
    obtain ⟨hwn0, hwn1⟩ := forall_ch_iff.1 hwn
    obtain ⟨hwf0, hwf1⟩ := forall_ch_iff.1 hwf
    exact ⟨hparam, hbase0, hbase1, hwn0, hwn1, hwf0, hwf1, hactive, hnUni, hnOsc, htail, hosc⟩

/-- The lane's targets are computed from what its lane state holds. -/
theorem SameLanes.sameParams {cl cl' : Cluster} {l l' : Nat} (h : SameLanes cl cl' l l') : SameParams cl cl' l l' :=
  ⟨fun p ch hp hch => (h.param p hp ch hch).1, h.base⟩

/-! ### Weights and samples of a lane -/

section
variable (k : Config) {cl cl' : Cluster} {l l' : Nat} (h : SameLanes cl cl' l l') (s s' : Site)
include h

theorem panWeight_same {ch : Nat} (hch : ch < 2) :
    sameF32 (panWeight k s cl (2 * l + ch)) (panWeight k s' cl' (2 * l' + ch)) := by
  have hlane : ∀ l, laneOf (2 * l + ch) = l := fun l => by unfold laneOf; omega
  have hchan : ∀ l, chOf (2 * l + ch) = ch := fun l => by unfold chOf; omega
  have hpan := h.sameParams.cur 7 ch (by decide) hch
  rw [panWeight, panWeight, hlane, hlane, hchan, hchan, h.sameParams.unisonCount_eq k]
  refine sameF32_fdiv _ _ ?_ (sameF32_refl _)
  unfold tripan
  split
  · exact sameF32_fsub _ _ (sameF32_refl _) hpan
  · exact hpan

theorem weights_same {ch : Nat} (hch : ch < 2) :
    sameF32 (weightNormal k s cl (2 * l + ch)) (weightNormal k s' cl' (2 * l' + ch))
    ∧ sameF32 (weightFlipped k s cl (2 * l + ch)) (weightFlipped k s' cl' (2 * l' + ch)) := by
  have hpan := panWeight_same k h s s' hch
  have hstereo := h.sameParams.cur 6 ch (by decide) hch
  have hlevel := h.sameParams.cur 5 ch (by decide) hch
  have hnormal := sameF32_fadd (5 :: (2 * l + ch) :: s) (5 :: (2 * l' + ch) :: s') (sameF32_refl F32.one) hstereo
  have hflipped := sameF32_fsub (9 :: (2 * l + ch) :: s) (9 :: (2 * l' + ch) :: s') (sameF32_refl F32.one) hstereo
  exact ⟨sameF32_fmul _ _ (sameF32_fsqrt _ _ (sameF32_fmul _ _ hpan hnormal)) hlevel,
    sameF32_fmul _ _ (sameF32_fsqrt _ _ (sameF32_fmul _ _ hpan hflipped)) hlevel⟩

theorem laneStep_same (bank : BankSlot) {m m' : Mask} (hm : maskBit m l = maskBit m' l') :
    SameVoice (laneStep k s bank m l (cl.voice l)).1 (laneStep k s' bank m' l' (cl'.voice l')).1
    ∧ samePair (laneStep k s bank m l (cl.voice l)).2 (laneStep k s' bank m' l' (cl'.voice l')).2 := by
  unfold laneStep
  rw [← hm]
  split
  · exact uvProcess_same k _ _ bank h.voice
  · exact ⟨h.voice, sameF32_refl _, sameF32_refl _⟩

end

theorem mixElement_same (s s' : Site) {wn wn' wf wf' : Lin} {e e' : Nat} {p p' : F32 × F32} (he : e % 2 = e' % 2)
    (hwn : sameF32 (linCur wn e) (linCur wn' e')) (hwf : sameF32 (linCur wf e) (linCur wf' e')) (hp : samePair p p') :
    sameF32 (mixElement s wn wf e p) (mixElement s' wn' wf' e' p') := by
  rw [mixElement, mixElement, he]
  exact sameF32_fadd _ _ (sameF32_fmul _ _ hwn (sameF32_channel hp _)) (sameF32_fmul _ _ hwf (sameF32_channel hp _))

/-! ### The smoothers of a lane -/

section
variable {w w' v v' : Lin} {l l' n : Nat} (hlen : w.length = n) (hlen' : w'.length = n) (hl : 2 * l + 1 < n)
  (hl' : 2 * l' + 1 < n) (h : sameCells w w' l l')
include hlen hlen' hl hl' h

/-- Smoothers changed cell by cell by changes that no claim may tell apart. -/
theorem sameCells_of_map {f f' : Nat → LinCell → LinCell} (hv : ∀ e, v[e]? = (w[e]?).map (f e))
    (hv' : ∀ e, v'[e]? = (w'[e]?).map (f' e))
    (hf : ∀ ch x y, ch < 2 → sameLinCell x y → sameLinCell (f (2 * l + ch) x) (f' (2 * l' + ch) y)) :
    sameCells v v' l l' := by
  intro ch hch
  have hx : w[2 * l + ch]? = some (w.getD (2 * l + ch) default) := by simp [show 2 * l + ch < w.length by omega]
  have hy : w'[2 * l' + ch]? = some (w'.getD (2 * l' + ch) default) := by simp [show 2 * l' + ch < w'.length by omega]
  rw [List.getD_eq_getElem?_getD, List.getD_eq_getElem?_getD, hv, hv', hx, hy]
  exact hf ch _ _ hch (h ch hch)

theorem linTick1_sameCells (s s' : Site) : sameCells (linTick1 s w) (linTick1 s' w') l l' :=
  sameCells_of_map hlen hlen' hl hl' h (linTick1_getElem? s w) (linTick1_getElem? s' w')
    fun _ _ _ _ hxy => ⟨sameF32_fadd _ _ hxy.1 hxy.2, hxy.2⟩

theorem linTickN_sameCells (s s' : Site) (count : Nat) :
    sameCells (linTickN s w count) (linTickN s' w' count) l l' :=
  sameCells_of_map hlen hlen' hl hl' h (linTickN_getElem? s w count) (linTickN_getElem? s' w' count)
    fun _ _ _ _ hxy => ⟨sameF32_fadd _ _ hxy.1 (sameF32_fmul _ _ hxy.2 (sameF32_refl _)), hxy.2⟩

theorem linSet_sameCells (s s' : Site) {target target' : Nat → F32} (t : F32)
    (htarget : ∀ ch, ch < 2 → sameF32 (target (2 * l + ch)) (target' (2 * l' + ch))) :
    sameCells (linSet s w target t (fun _ => true)) (linSet s' w' target' t (fun _ => true)) l l' :=
  sameCells_of_map hlen hlen' hl hl' h (linSet_getElem? s w target t _) (linSet_getElem? s' w' target' t _)
    fun ch _ _ hch hxy =>
      ⟨hxy.1, sameF32_fmul _ _ (sameF32_fsub _ _ (htarget ch hch) hxy.1) (sameF32_refl t)⟩

end

/-! ### The set-up of a block -/

theorem clTickN_param (s : Site) (cl : Cluster) (n p : Nat) :
    (clTickN s cl n).param p = linTickN (p :: s) (cl.param p) n := by
  rw [Cluster.param, clTickN, List.getD_eq_getElem?_getD, List.getElem?_mapIdx, Cluster.param,
    List.getD_eq_getElem?_getD]
  cases cl.params[p]? with
  | none => simp [linTickN]
  | some w => simp

theorem linCur_of_getElem?_none {w : Lin} {e : Nat} (h : w[e]? = none) : linCur w e = F32.zero := by
  simp [linCur, List.getD, h]

/-- The place of a tick reaches the payload of a NaN only. -/
theorem linTickN_cur_sameF32 (s s' : Site) (w : Lin) (n e : Nat) :
    sameF32 (linCur (linTickN s w n) e) (linCur (linTickN s' w n) e) := by
  have hcell := linTickN_getElem? s w n e
  have hcell' := linTickN_getElem? s' w n e
  cases hw : w[e]? with
  | none =>
    rw [hw, Option.map_none] at hcell hcell'
    rw [linCur_of_getElem?_none hcell, linCur_of_getElem?_none hcell']
    exact sameF32_refl _
  | some c =>
    rw [hw, Option.map_some] at hcell hcell'
    rw [linCur_of_getElem? hcell, linCur_of_getElem? hcell']
    exact sameF32_fadd _ _ (sameF32_refl _) (fmul_sameF32 _ _ _ _)

theorem clTickN_cur_sameF32 (s s' : Site) (cl : Cluster) (n p x : Nat) :
    sameF32 ((clTickN s cl n).cur p x) ((clTickN s' cl n).cur p x) := by
  have hcur : ∀ s, (clTickN s cl n).cur p x = linCur (linTickN (p :: s) (cl.param p) n) x := fun s => by
    rw [Cluster.cur, clTickN_param]
  rw [hcur, hcur]
  exact linTickN_cur_sameF32 _ _ _ n x

theorem clTickN_voice (s : Site) (cl : Cluster) (n l : Nat) : (clTickN s cl n).voice l = cl.voice l := rfl

theorem laneTurns_clTickN (k : Config) (s s' : Site) (cl : Cluster) (n : Nat) :
    laneTurns k (clTickN s cl n) = laneTurns k (clTickN s' cl n) := by
  funext l
  rw [laneTurns, laneTurns, unisonCount_eq_of_sameF32 (clTickN_cur_sameF32 s s' cl n 8 (2 * l)) k, clTickN_voice,
    clTickN_voice]

theorem laneDraw_clTickN (k : Config) (s s' : Site) (cl : Cluster) (n : Nat) (m : Mask) (draws l : Nat) :
    laneDraw k (clTickN s cl n) m draws l = laneDraw k (clTickN s' cl n) m draws l := by
  rw [laneDraw, laneDraw, laneTurns_clTickN k s s']

section
variable {k : Config} {cl cl' : Cluster} (hcl : cl.Sound k) (hcl' : cl'.Sound k) {l l' : Nat} (hl : l < k.v)
  (hl' : l' < k.v) (h : SameLanes cl cl' l l') (s s' : Site) (n : Nat)
include hcl hcl' hl hl' h

theorem clTickN_sameLanes : SameLanes (clTickN s cl n) (clTickN s' cl' n) l l' := by
  refine { h with param := fun p hp => ?_ }
  rw [clTickN_param, clTickN_param]
  exact linTickN_sameCells (param_length hcl hp) (param_length hcl' hp) (two_mul_lane_lt hl) (two_mul_lane_lt hl')
    (h.param p hp) _ _ n

variable {m m' : Mask} {draws draws' : Nat}

/-- The condition on draws of the statements, as the starting phases of the processed lane. -/
theorem sameStarts_of_sameDraws (hdraws : sameDraws k (clTickN [] cl n) (clTickN [] cl' n) m m' draws draws' l l')
    (hon : maskBit m l = true) :
    sameStarts (clTickN s cl n) (clTickN s' cl' n) l l' (laneTurns k (clTickN s cl n) l)
      (laneDraw k (clTickN s cl n) m draws l) (laneDraw k (clTickN s' cl' n) m' draws' l') := by
  have hrandom := fun ch hch => (clTickN_sameLanes hcl hcl' hl hl' h s s' n).sameParams.cur 4 ch (by decide) hch
  intro ch j hch hj
  rcases hdraws hon with hzero | hequal
  · have hzeros : ∀ ch, ch < 2 → (clTickN [] cl n).cur 4 (2 * l + ch) = 0 := forall_ch_iff.2 hzero
    have hx := eq_of_sameF32_zero (clTickN_cur_sameF32 [] s cl n 4 _) (hzeros ch hch)
    have hx' := eq_of_sameF32_zero (hrandom ch hch) hx
    rw [hx, hx', start_of_guarded _ (.inl rfl), start_of_guarded _ (.inl rfl)]
  · rw [laneTurns_clTickN k s []] at hj
    rw [laneDraw_clTickN k s [], laneDraw_clTickN k s' [], hequal j hj]
    exact start_eq_of_sameF32 (hrandom ch hch) _

/-- Steps (1) to (3) of PROCESS keep two lanes the same. -/
theorem blockSetup_sameLanes (hm : maskBit m l = maskBit m' l')
    (hdraws : sameDraws k (clTickN [] cl n) (clTickN [] cl' n) m m' draws draws' l l') :
    SameLanes (blockSetup k s cl m n draws).1 (blockSetup k s' cl' m' n draws').1 l l' := by
  have hticked := clTickN_sameLanes hcl hcl' hl hl' h (0 :: s) (0 :: s') n
  have hweights := fun ch hch => weights_same k hticked (2 :: s) (2 :: s') (ch := ch) hch
  obtain ⟨hwn, hwf⟩ := blockSetup_weights k s cl m n draws
  obtain ⟨hwn', hwf'⟩ := blockSetup_weights k s' cl' m' n draws'
  refine ⟨hticked.param, h.base, ?_, ?_, h.active, ?_⟩
  · rw [hwn, hwn']
    exact linSet_sameCells hcl.wn hcl'.wn (two_mul_lane_lt hl) (two_mul_lane_lt hl') h.wn _ _ _
      fun ch hch => (hweights ch hch).1
  · rw [hwf, hwf']
    exact linSet_sameCells hcl.wf hcl'.wf (two_mul_lane_lt hl) (two_mul_lane_lt hl') h.wf _ _ _
      fun ch hch => (hweights ch hch).2
  · rw [voice_of_getElem? (blockSetup_voice_getElem? k s m n draws hcl (voices_getElem? hcl hl)),
      voice_of_getElem? (blockSetup_voice_getElem? k s' m' n draws' hcl' (voices_getElem? hcl' hl')), ← hm]
    split
    next hon =>
      refine uvSetSmooth_same k _ _ hticked.sameParams _ h.voice _ _ ?_
      rw [(cluster_voice_sound hcl hl).osc_length]
      exact sameStarts_of_sameDraws hcl hcl' hl hl' h _ _ n hdraws hon
    next => exact h.voice

/-! ### The samples -/

/-- A step keeps two lanes the same. -/
theorem clStep_sameLanes (bank : BankSlot) (hm : maskBit m l = maskBit m' l') :
    SameLanes (clStep k s bank cl m).1 (clStep k s' bank cl' m').1 l l' := by
  have hvoice := (clStep_voice_getElem? k s bank cl m l).trans (congrArg _ (voices_getElem? hcl hl))
  have hvoice' := (clStep_voice_getElem? k s' bank cl' m' l').trans (congrArg _ (voices_getElem? hcl' hl'))
  refine { h with
    wn := linTick1_sameCells hcl.wn hcl'.wn (two_mul_lane_lt hl) (two_mul_lane_lt hl') h.wn _ _
    wf := linTick1_sameCells hcl.wf hcl'.wf (two_mul_lane_lt hl) (two_mul_lane_lt hl') h.wf _ _
    voice := ?_ }
  rw [voice_of_getElem? hvoice, voice_of_getElem? hvoice']
  exact (laneStep_same k h s s' bank hm).1

/-- A step gives the same samples of two lanes that are the same. -/
theorem clStep_same_samples (bank : BankSlot) (hm : maskBit m l = maskBit m' l') {ch : Nat} (hch : ch < 2) :
    ∃ x x', (clStep k s bank cl m).2[2 * l + ch]? = some x ∧ (clStep k s' bank cl' m').2[2 * l' + ch]? = some x'
      ∧ sameF32 x x' := by
  have hlane : ∀ l, (2 * l + ch) / 2 = l := fun l => by omega
  have hsample := clStep_sample_getElem? k s bank cl m (2 * l + ch)
  have hsample' := clStep_sample_getElem? k s' bank cl' m' (2 * l' + ch)
  rw [hlane, voices_getElem? hcl hl] at hsample
  rw [hlane, voices_getElem? hcl' hl', ← hm] at hsample'
  refine ⟨_, _, hsample, hsample', ?_⟩
  obtain ⟨-, hpair⟩ := laneStep_same k h s s' bank hm
  have he := two_mul_lane_lt hl
  have he' := two_mul_lane_lt hl'
  have hwn := linTick1_sameCells hcl.wn hcl'.wn he he' h.wn (1 :: s) (1 :: s') ch hch
  have hwf := linTick1_sameCells hcl.wf hcl'.wf he he' h.wf (2 :: s) (2 :: s') ch hch
  split
  · exact mixElement_same s s' (by omega) hwn.1 hwf.1 hpair
  · exact sameF32_refl _

theorem clusterAfter_sameLanes (bank : BankSlot) (hm : maskBit m l = maskBit m' l') (i : Nat) :
    SameLanes (clusterAfter k s bank m cl i) (clusterAfter k s' bank m' cl' i) l l' := by
  induction i with
  | zero => exact h
  | succ i ih =>
    exact clStep_sameLanes (clusterAfter_sound k s bank m hcl i) (clusterAfter_sound k s' bank m' hcl' i) hl hl' ih
      _ _ bank hm

theorem sampleAt_same (bank : BankSlot) (hm : maskBit m l = maskBit m' l') (i : Nat) {ch : Nat} (hch : ch < 2) :
    ∃ x x', (sampleAt k s bank m cl i)[2 * l + ch]? = some x ∧ (sampleAt k s' bank m' cl' i)[2 * l' + ch]? = some x'
      ∧ sameF32 x x' :=
  clStep_same_samples (clusterAfter_sound k s bank m hcl i) (clusterAfter_sound k s' bank m' hcl' i) hl hl'
    (clusterAfter_sameLanes hcl hcl' hl hl' h s s' bank hm i) _ _ bank hm hch

end

/-! ### Two runs of PROCESS -/

/-- Two runs of PROCESS in which lane ℓ of the one and lane ℓ' of the other have the same lane state, selection,
draws, build and bank. -/
structure TwinRuns (s s' : State) (c c' : Field) (mask mask' : Mask) (n : Word) (l l' : Nat) : Prop where
  sound : s.Sound
  sound' : s'.Sound
  ready : clusterReady s c
  ready' : clusterReady s' c'
  cfg : s'.cfg = s.cfg
  bank : s'.bank s'.activeBank.slot.toNat = s.bank s.activeBank.slot.toNat
  lane_lt : l < s.cfg.v
  lane_lt' : l' < s.cfg.v
  selected : maskBit mask l = maskBit mask' l'
  lane : sameLane (getLane (s.cluster c.toNat) l) (getLane (s'.cluster c'.toNat) l')
  draws : sameDraws s.cfg (clTickN [] (s.cluster c.toNat) n.toNat) (clTickN [] (s'.cluster c'.toNat) n.toNat)
    (processMask s c mask) (processMask s' c' mask') s.draws s'.draws l l'

namespace TwinRuns
variable {s s' : State} {c c' : Field} {mask mask' : Mask} {n : Word} {l l' : Nat}
  (h : TwinRuns s s' c c' mask mask' n l l')
include h

theorem clusters_sound : (s.cluster c.toNat).Sound s.cfg ∧ (s'.cluster c'.toNat).Sound s.cfg :=
  ⟨cluster_sound h.sound h.ready.2, h.cfg ▸ cluster_sound h.sound' h.ready'.2⟩

theorem setups_sound : (processSetup s c mask n).1.Sound s.cfg ∧ (processSetup s' c' mask' n).1.Sound s.cfg :=
  ⟨processSetup_sound mask h.sound h.ready, h.cfg ▸ processSetup_sound mask' h.sound' h.ready'⟩

theorem sameLanes : SameLanes (s.cluster c.toNat) (s'.cluster c'.toNat) l l' :=
  (sameLane_getLane_iff h.clusters_sound.1 h.clusters_sound.2 l l').1 h.lane

/-- The lane is processed in both runs or in neither. -/
theorem processMask_eq : maskBit (processMask s c mask) l = maskBit (processMask s' c' mask') l' := by
  have hactive := h.sameLanes.active
  have hselected := h.selected
  simp only [processMask, maskBit, BitVec.getLsbD_and] at hactive hselected ⊢
  rw [hactive, hselected]

theorem setup_sameLanes : SameLanes (processSetup s c mask n).1 (processSetup s' c' mask' n).1 l l' := by
  obtain ⟨hcl, hcl'⟩ := h.clusters_sound
  rw [processSetup, processSetup, h.cfg]
  exact blockSetup_sameLanes hcl hcl' h.lane_lt h.lane_lt' h.sameLanes _ _ _ h.processMask_eq h.draws

theorem after_sameLanes (i : Nat) : SameLanes (processAfter s c mask n i) (processAfter s' c' mask' n i) l l' := by
  obtain ⟨hsetup, hsetup'⟩ := h.setups_sound
  rw [processAfter, processAfter, h.cfg, h.bank]
  exact clusterAfter_sameLanes hsetup hsetup' h.lane_lt h.lane_lt' h.setup_sameLanes _ _ _ h.processMask_eq i

theorem sample_same (i : Nat) {ch : Nat} (hch : ch < 2) : ∃ x x', (processSample s c mask n i)[2 * l + ch]? = some x
    ∧ (processSample s' c' mask' n i)[2 * l' + ch]? = some x' ∧ sameF32 x x' := by
  obtain ⟨hsetup, hsetup'⟩ := h.setups_sound
  rw [processSample, processSample, h.cfg, h.bank]
  exact sampleAt_same hsetup hsetup' h.lane_lt h.lane_lt' h.setup_sameLanes _ _ _ h.processMask_eq i hch

variable (out out' : Word)

/-- The two lanes end with the same lane state. -/
theorem processed_sameLane : sameLane (getLane ((processed s c mask n out).cluster c.toNat) l)
    (getLane ((processed s' c' mask' n out').cluster c'.toNat) l') := by
  have hafter := processAfter_sound mask h.sound h.ready (n := n) n.toNat
  have hafter' := processAfter_sound mask' h.sound' h.ready' (n := n) n.toNat
  rw [h.cfg] at hafter'
  rw [processed_cluster mask h.sound h.ready, processed_cluster mask' h.sound' h.ready',
    sameLane_getLane_iff hafter hafter']
  exact h.after_sameLanes n.toNat

/-- The two lanes give the same samples. -/
theorem processed_same_samples {i ch : Nat} (hi : i < n.toNat) (hch : ch < 2) : ∃ x x',
    (processed s c mask n out).outMem.lookup (out.toNat + i * s.cfg.e + 2 * l + ch) = some x
    ∧ (processed s' c' mask' n out').outMem.lookup (out'.toNat + i * s.cfg.e + 2 * l' + ch) = some x'
    ∧ sameF32 x x' := by
  obtain ⟨x, x', hx, hx', hsame⟩ := h.sample_same i hch
  have he : 2 * l + ch < s.cfg.e := by have := two_mul_lane_lt h.lane_lt; omega
  have he' : 2 * l' + ch < s'.cfg.e := by have := two_mul_lane_lt h.lane_lt'; rw [h.cfg]; omega
  have hlookup := processOut_lookup_inside mask h.sound h.ready (out := out) hi he
  have hlookup' := processOut_lookup_inside mask' h.sound' h.ready' (out := out') hi he'
  rw [h.cfg] at hlookup'
  rw [Nat.add_assoc _ (2 * l), Nat.add_assoc _ (2 * l')]
  exact ⟨x, x', hlookup.trans hx, hlookup'.trans hx', hsame⟩

/-- The two lanes end with the same phases and masks. -/
theorem processed_same_phases :
    (((processed s c mask n out).cluster c.toNat).voice l).osc.map (fun o => (o.phase, o.omask))
      = (((processed s' c' mask' n out').cluster c'.toNat).voice l').osc.map fun o => (o.phase, o.omask) := by
  have hosc := (h.after_sameLanes n.toNat).voice.osc
  rw [processed_cluster mask h.sound h.ready, processed_cluster mask' h.sound' h.ready', ← List.forall₂_eq_eq_eq]
  refine List.forall₂_map_left_iff.2 (List.forall₂_map_right_iff.2 (hosc.imp ?_))
  rintro o o' ⟨hphase, homask, -, -⟩
  rw [hphase, homask]

end TwinRuns

/-- Settles O59: every step of PROCESS keeps two lanes with the same lane state the same, NaN for NaN. -/
theorem laneOutputIsIndependentOfOtherLanes : Obligations.LaneOutputIsIndependentOfOtherLanes := by
  intro c c' mask mask' n out out' s s' l hinv hinv' hready hready' hn hmax hmax' hcfg hwindow hwindow' hactive
    hactive' hbank hl hmask cl cl' hlane hdraws
  have htwin : TwinRuns s s' c c' mask mask' n l l :=
    ⟨State.inv_iff.1 hinv, State.inv_iff.1 hinv', hready, hready', hcfg, hbank, hl, hl, hmask, hlane, hdraws⟩
  exact ⟨_, _, exec_process mask ⟨hready, hn, hmax, hwindow, hactive⟩,
    exec_process mask' ⟨hready', hn, hmax', by rwa [hcfg], hactive'⟩, htwin.processed_sameLane out out',
    fun i ch hi hch => htwin.processed_same_samples out out' hi hch⟩

/-- Settles O60: the argument of O59 for two lanes of any numbers. -/
theorem movedVoiceContinuesSeamlessly : Obligations.MovedVoiceContinuesSeamlessly := by
  intro c c' mask mask' n out out' s s' l l' hinv hinv' hready hready' hn hmax hmax' hcfg hwindow hwindow' hactive
    hactive' hbank hl hl' hmask cl cl' hmoved hdraws
  have htwin : TwinRuns s s' c c' mask mask' n l l' := ⟨State.inv_iff.1 hinv, State.inv_iff.1 hinv', hready, hready',
    hcfg, hbank, hl, hl', hmask, sameLane_of_eq hmoved, hdraws⟩
  exact ⟨_, _, exec_process mask ⟨hready, hn, hmax, hwindow, hactive⟩,
    exec_process mask' ⟨hready', hn, hmax', by rwa [hcfg], hactive'⟩, htwin.processed_same_phases out out',
    fun i ch hi hch => htwin.processed_same_samples out out' hi hch⟩

end Sys2Proof.Machine
end

section
/-! SUPPORT. The system commands (`45_system.md`): the decoding and the answer of NOP, the operand checks and the fresh
pool of INIT, the status registers of STAT, and the statements on them. -/

namespace Sys2Proof.Machine

/-! ### NOP -/

theorem exec_nop (s : State) : exec .nop s = .next (answeredOk s 0) := rfl

/-- Opcode 0 names the zero word alone (`45_system.md` R287): a header of it with no unused bit set has no bit set. -/
theorem eq_zero_of_unusedClear {w0 : Word} (hopc : w0.opc = 0) (hclear : UnusedClear w0) : w0 = 0 := by
  obtain ⟨hall, -⟩ := hclear
  obtain ⟨hc, hlm, haux⟩ := hall (.inl hopc)
  exact (header_eq hopc hc hlm haux).symm

theorem decode_zero (v : Nat) (rest : List Word) : decode v (0 :: rest) = .instr .nop 1 :=
  decodeReadsEveryEncoding v .nop rest rfl

theorem decode_of_opc_zero (v : Nat) {w0 : Word} (rest : List Word) (hopc : w0.opc = 0) (hne : w0 ≠ 0) :
    decode v (w0 :: rest) = .illegal w0 1 := by
  have hlength : commandLength w0.opc.toNat = 1 := by rw [hopc]; rfl
  have hbad : Malformed v w0 rest := .inr (.inl fun hclear => hne (eq_zero_of_unusedClear hopc hclear))
  exact decode_eq_illegal_iff.2 ⟨by omega, hbad, rfl, hlength⟩

/-- Settles O18: the zero word is the encoding of NOP, and any other word of its opcode has an unused bit set. -/
theorem nopOnlyAnswers : Obligations.NopOnlyAnswers := by
  refine ⟨exec_nop, fun v w0 rest hopc => ?_⟩
  split
  next hzero => rw [hzero, decode_zero]
  next hne => exact decode_of_opc_zero v rest hopc hne

/-! ### The checks of INIT -/

/-- The operand checks read a zero word as the number 0. -/
theorem toNat_eq_zero_iff (w : Word) : w.toNat = 0 ↔ w = 0 := (BitVec.toNat_eq (y := 0)).symm

section
variable {rate : F32} {maxBlock clusters : Word} {s : State}

theorem exec_init_of_bad_rate (hrate : isPosFinite rate = false) :
    exec (.init rate maxBlock clusters) s = .next (failed s 7 1) :=
  checked_cons_fail (by simp [hrate])

theorem exec_init_of_bad_block (hrate : isPosFinite rate = true) (hblock : maxBlock = 0) :
    exec (.init rate maxBlock clusters) s = .next (failed s 7 2) :=
  (checked_cons_pass (by simp [hrate])).trans (checked_cons_fail (by simp [hblock]))

theorem exec_init_of_bad_clusters (hrate : isPosFinite rate = true) (hblock : maxBlock ≠ 0)
    (hclusters : clusters = 0 ∨ 256 < clusters.toNat) :
    exec (.init rate maxBlock clusters) s = .next (failed s 7 3) := by
  have hclusters : clusters.toNat = 0 ∨ Config.maxClusters < clusters.toNat :=
    hclusters.imp_left (toNat_eq_zero_iff clusters).2
  rw [ne_eq, ← toNat_eq_zero_iff] at hblock
  exact (checked_cons_pass (by simp [hrate])).trans ((checked_cons_pass (by simp [hblock])).trans
    (checked_cons_fail (by simpa using hclusters)))

/-- The state that a successful INIT leaves before its answer (`45_system.md` R282). -/
def State.configured (s : State) (rate : F32) (maxBlock clusters : Word) : State :=
  { s with
    sampleRate := rate
    maxBlock := maxBlock
    numClusters := clusters
    clusters := List.replicate clusters.toNat (freshCluster s.cfg)
    errstat := 0
    initialized := true }

theorem exec_init_of_good (hrate : isPosFinite rate = true) (hblock : maxBlock ≠ 0) (hsome : clusters ≠ 0)
    (hmax : clusters.toNat ≤ 256) :
    exec (.init rate maxBlock clusters) s = .next (answeredOk (s.configured rate maxBlock clusters) 0) := by
  rw [ne_eq, ← toNat_eq_zero_iff] at hblock hsome
  have hmax : clusters.toNat ≤ Config.maxClusters := hmax
  exact checked_pass _ _ _ (by simp [hrate, hblock, hsome, hmax])

end

/-- Settles O20: the three checks in their order. -/
theorem initNamesTheBadOperand : Obligations.InitNamesTheBadOperand := by
  refine fun rate maxBlock clusters s => ⟨fun hrate => ?_, fun hpos hfin hblock => ?_,
    fun hpos hfin hblock hclusters => ?_⟩
  · rw [← isPosFinite_iff, Bool.not_eq_true] at hrate
    exact exec_init_of_bad_rate hrate
  · exact exec_init_of_bad_block ((isPosFinite_iff rate).2 ⟨hpos, hfin⟩) hblock
  · exact exec_init_of_bad_clusters ((isPosFinite_iff rate).2 ⟨hpos, hfin⟩) hblock hclusters

/-! ### The fresh pool -/

/-- A mask made of one bit has that bit alone; masks have 8 bits. -/
theorem maskBit_two_pow {l : Nat} (hl : l < 8) (j : Nat) : maskBit (BitVec.ofNat 8 (2 ^ l)) j = decide (j = l) := by
  rw [maskBit, BitVec.getLsbD_ofNat, Nat.testBit_two_pow, Bool.eq_iff_iff]
  simp only [Bool.and_eq_true, decide_eq_true_eq]
  omega

/-- The one copy of a fresh voice sits in the last lane of its group (`10_state.md` R51). -/
theorem maskBit_freshVoice_tailMask {k : Config} (hk : k.legal = true) (j : Nat) :
    maskBit (freshVoice k).tailMask j = decide (j + 1 = k.v) := by
  have hv := v_of_legal hk
  have htail : maskBit (freshVoice k).tailMask j = decide (j = k.v - 1) := maskBit_two_pow (by omega) j
  rw [htail, decide_eq_decide]
  omega

/-- Settles O19: the pool is that many copies of the fresh cluster, whose voices are copies of the fresh voice. -/
theorem initCreatesTheFreshPool : Obligations.InitCreatesTheFreshPool := by
  intro rate maxBlock clusters s hlegal hpos hfin hblock hsome hmax
  refine ⟨_, exec_init_of_good ((isPosFinite_iff rate).2 ⟨hpos, hfin⟩) hblock hsome hmax, rfl, List.length_replicate,
    fun cl hcl => ?_⟩
  obtain rfl := List.eq_of_mem_replicate hcl
  refine ⟨rfl, rfl, rfl, rfl, rfl, List.length_replicate, fun uv huv => ?_⟩
  obtain rfl := List.eq_of_mem_replicate huv
  refine ⟨rfl, rfl, List.length_replicate, maskBit_freshVoice_tailMask hlegal, fun o ho => ?_⟩
  obtain rfl := List.eq_of_mem_replicate ho
  exact ⟨rfl, rfl, rfl, rfl⟩

/-! ### The status registers -/

theorem exec_stat_of_ne_seven {reg c slot : Field} {s : State} (h : reg.toNat ≠ 7) :
    exec (.stat reg c slot) s = .next (answeredOk s (statusWord s reg.toNat slot.toNat)) :=
  if_neg h

/-- Register 7 is the one that makes checks (`45_system.md` R285). -/
theorem exec_stat_seven {reg c slot : Field} {s : State} (h : reg.toNat = 7) :
    exec (.stat reg c slot) s
      = checked s [checkInit s, checkCluster s c] (respond s ((s.cluster c.toNat).laneActive.setWidth 32)) :=
  if_pos h

/-- The geometry of a legal build is four bytes (`10_state.md` R36). -/
theorem geometryWord_eq_header {k : Config} (hk : k.legal = true) :
    geometryWord k = header (BitVec.ofNat 8 (min k.k 255)) (BitVec.ofNat 8 (min k.maxUnison 255))
      (BitVec.ofNat 8 k.v) (BitVec.ofNat 8 k.numOctaves) := by
  have hv := v_le_of_legal hk
  have hoct := numOctaves_le_of_legal hk
  apply BitVec.eq_of_toNat_eq
  simp only [geometryWord, header_toNat, BitVec.toNat_ofNat]
  omega

theorem geometryWord_fields {k : Config} (hk : k.legal = true) :
    (geometryWord k).auxField.toNat = k.numOctaves ∧ (geometryWord k).lmField.toNat = k.v
    ∧ (geometryWord k).cField.toNat = min k.maxUnison 255 ∧ (geometryWord k).opc.toNat = min k.k 255 := by
  have hv := v_le_of_legal hk
  have hoct := numOctaves_le_of_legal hk
  simp only [geometryWord_eq_header hk, header_auxField, header_lmField, header_cField, header_opc, BitVec.toNat_ofNat]
  omega

/-- Registers from 9 on read as 0 (`10_state.md` R36). -/
theorem statusWord_of_nine_le (s : State) {reg : Nat} (slot : Nat) (h : 9 ≤ reg) : statusWord s reg slot = 0 := by
  obtain ⟨n, rfl⟩ := Nat.exists_eq_add_of_le' h
  rfl

/-- Settles O21: each register of `statusWord` by its number, and the two checks of register 7. -/
theorem statReadsStatusRegisters : Obligations.StatReadsStatusRegisters := by
  refine fun reg c slot s => ⟨fun hreg => ⟨_, exec_stat_of_ne_seven hreg, ?initialized, ?rate, ?block, ?clusters,
    ?activeBank, ?errstat, ?geometry, ?frames, ?reserved⟩, fun hreg => ?lanes⟩
  case initialized | rate | block | clusters | frames => rintro rfl; rfl
  case activeBank => rintro rfl; exact toNat_activeBankWord s.activeBank
  case errstat => rintro rfl; exact BitVec.toNat_setWidth_of_le (by decide)
  case geometry => rintro rfl; exact geometryWord_fields
  case reserved => exact statusWord_of_nine_le s slot.toNat
  case lanes =>
    rw [exec_stat_seven hreg]
    refine ⟨fun huninit => ?_, fun hinit hrange => ?_, fun hready => checked_of_clusterReady hready _ _⟩
    · exact checked_cons_fail (by simp [huninit])
    · exact (checked_cons_pass (by simp [hinit])).trans (checked_cons_fail (by simpa using hrange))

end Sys2Proof.Machine
end

section
/-! SUPPORT. Errors are precise (`60_exceptions.md` R304, R305), the wait for a whole command (R316, R317), and the checks
of the cluster commands in their order (R302, R303). -/

namespace Sys2Proof.Machine

/-! ### Precise errors -/

/-- A status code of `30_encoding.md` R109 can be read back from the first response word. -/
theorem rsp0_inj {a b : Nat} (ha : a ≤ 7) (hb : b ≤ 7) (h : rsp0 a = rsp0 b) : a = b := by
  have htoNat := congrArg BitVec.toNat h
  simp only [rsp0, BitVec.toNat_ofNat] at htoNat
  omega

/-- Two responses of one command to the same port agree in status and payload. -/
theorem response_inj {port : List Word} {a b : Nat} {x y : Word} (ha : a ≤ 7) (hb : b ≤ 7)
    (h : port ++ [rsp0 a, x] = port ++ [rsp0 b, y]) : a = b ∧ x = y := by
  obtain ⟨hstatus, htail⟩ := List.cons.inj (List.append_cancel_left h)
  exact ⟨rsp0_inj ha hb hstatus, List.head_eq_of_cons_eq htail⟩

/-- Settles O11: the one answer of a command is a failed check's, which leaves `failed`, or `OK`, whose status is 0. -/
theorem errorsArePrecise : Obligations.ErrorsArePrecise := by
  intro i s t status info hexec hlow hhigh hrsp
  rcases exec_endsWithOneAnswer i s t hexec with ⟨e, info', rfl⟩ | ⟨u, payload, hu, rfl⟩
  · obtain ⟨rfl, rfl⟩ := response_inj (errCode_bounds e).2 hhigh hrsp
    exact raised_eq_failed s e info'
  · rw [answeredOk, hu] at hrsp
    obtain ⟨hzero, -⟩ := response_inj (Nat.zero_le 7) hhigh hrsp
    omega

/-! ### The wait for a whole command -/

theorem step_of_wait {s : State} (hlegal : s.cfg.legal = true) (hnext : nextCommand s = .wait) : step s = .next s := by
  rw [step, if_pos hlegal, hnext]

/-- Settles O8: the decoder waits on an empty port by definition, and on missing operand words by its own law. -/
theorem stepWaitsForOperandWords : Obligations.StepWaitsForOperandWords := by
  rintro s hlegal (hempty | ⟨w0, rest, hport, hshort⟩)
  · exact step_of_wait hlegal (by rw [nextCommand, hempty]; rfl)
  · exact step_of_wait hlegal (by rw [nextCommand, hport]; exact decode_eq_wait_iff.2 hshort)

/-! ### The checks of the cluster commands -/

section
variable {s : State} {c lane : Field} {rest : List Check} {body : Host.Outcome State Fault Refusal}

theorem checked_of_uninitialized (h : s.initialized = false) :
    checked s (checkInit s :: rest) body = .next (failed s 2 0) :=
  checked_cons_fail (by simp [h])

theorem checked_of_initialized (h : s.initialized = true) :
    checked s (checkInit s :: rest) body = checked s rest body :=
  checked_cons_pass (by simp [h])

theorem checked_of_cluster_ge (h : s.numClusters.toNat ≤ c.toNat) :
    checked s (checkCluster s c :: rest) body = .next (failed s 3 (c.setWidth 32)) :=
  checked_cons_fail (by simpa using h)

theorem checked_of_lane_ge (h : s.cfg.v ≤ lane.toNat) :
    checked s (checkLane s lane :: rest) body = .next (failed s 4 (lane.setWidth 32)) :=
  checked_cons_fail (by simpa using h)

end

/-- Every cluster command begins with the checks of INIT and of its cluster, for MOVE the source cluster
(`60_exceptions.md` R302). -/
theorem exec_beginsWithClusterChecks {i : Instr} {c lane c2 lane2 id : Field} {mask : Mask} {value : F32}
    {samples n out : Word} {note : BitVec 7}
    (hi : i ∈ [Instr.process c mask n out, .setp c mask id value, .setps c mask id value samples,
      .von c lane note, .voff c lane, .move c lane c2 lane2, .reset c mask]) (s : State) :
    ∃ rest body, exec i s = checked s (checkInit s :: checkCluster s c :: rest) body := by
  simp only [List.mem_cons, List.not_mem_nil, or_false] at hi
  rcases hi with rfl | rfl | rfl | rfl | rfl | rfl | rfl
  all_goals exact ⟨_, _, rfl⟩

/-- Settles O47: the first two checks are those of every cluster command; the later ones are reached by passing those
before them. -/
theorem clusterCommandChecksInOrder : Obligations.ClusterCommandChecksInOrder := by
  intro s c c2 lane lane2 id mask value samples n out note
  refine ⟨fun i hi => ?first, fun hready hlane => ⟨?von, ?voff⟩, fun hready hc2 => ?destination,
    fun hready hready2 hlane => ?sourceLane, fun hready hready2 hlane hlane2 => ?destinationLane⟩
  case first =>
    obtain ⟨rest, body, hexec⟩ := exec_beginsWithClusterChecks hi s
    rw [hexec]
    exact ⟨checked_of_uninitialized,
      fun hinit hc => (checked_of_initialized hinit).trans (checked_of_cluster_ge hc)⟩
  case von => rw [exec, execVon, checked_of_clusterReady hready, checked_of_lane_ge hlane]
  case voff => rw [exec, execVoff, checked_of_clusterReady hready, checked_of_lane_ge hlane]
  case destination => rw [exec, execMove, checked_of_clusterReady hready, checked_of_cluster_ge hc2]
  case sourceLane =>
    rw [exec, execMove, checked_of_clusterReady hready, checked_of_cluster_lt hready2.2, checked_of_lane_ge hlane]
  case destinationLane =>
    rw [exec, execMove, checked_of_clusterReady hready, checked_of_cluster_lt hready2.2, checked_of_lane_lt hlane,
      checked_of_lane_ge hlane2]

end Sys2Proof.Machine
end
